-- ==== Sys2Proof/Word.lean ====
section
/-! DEFINITION. The word types: bytes, 32-bit bus words, two-bit groups and P-box entries (R13, R14, R15, R134). -/

namespace Sys2Proof

/-- A byte, an unsigned value 0..255 (R14). -/
abbrev Byte := BitVec 8

/-- A bus or register word (R13). -/
abbrev Word := BitVec 32

/-- A two-bit group (R402). -/
abbrev TwoBit := BitVec 2

/-- An entry of a P-box: 6 bits, 0..63 (R134). -/
abbrev PEntry := BitVec 6

/-- A byte string; element 0 is first (R15). -/
abbrev Bytes := List Byte

/-- An S-box as a string of byte entries, entry `i` at position `i` (R15, R133). -/
abbrev SBox := List Byte

/-- A P-box as a string of 6-bit entries, entry `i` at position `i` (R15, R134). -/
abbrev PBox := List PEntry

end Sys2Proof
end

