-- ==== Sys2Proof/Syntax.lean ====
section
/-! DEFINITION. The commands, one constructor per row of spec/opcode_table.json (R304). -/

namespace Sys2Proof

/-- The 23 commands. The data operands are registers, not fields of the command (R302). -/
inductive Instr where
  /-- NOP, 0x00 (R701). -/
  | nop
  /-- SETKEY, 0x01 (R702). -/
  | setkey
  /-- SETKEYSTR, 0x02 (R703). -/
  | setkeystr
  /-- SETKEYHEX, 0x03 (R704). -/
  | setkeyhex
  /-- GENKEY, 0x04 (R705). -/
  | genkey
  /-- ENCRYPT.ECB, 0x008 (R660). -/
  | encryptEcb
  /-- ENCRYPT.CBC, 0x108 (R660). -/
  | encryptCbc
  /-- DECRYPT.ECB, 0x009 (R661). -/
  | decryptEcb
  /-- DECRYPT.CBC, 0x109 (R661). -/
  | decryptCbc
  /-- ENCBLK, 0x0A (R555). -/
  | encblk
  /-- DECBLK, 0x0B (R556). -/
  | decblk
  /-- GLORIA, 0x0C (R610). -/
  | gloria
  /-- BOXGENS, 0x10 (R460). -/
  | boxgens
  /-- BOXGENP, 0x11 (R461). -/
  | boxgenp
  /-- MIX, 0x12 (R520). -/
  | mix
  /-- FOLD, 0x13 (R521). -/
  | fold
  /-- KISS, 0x14 (R522). -/
  | kiss
  /-- KISS2, 0x15 (R523). -/
  | kiss2
  /-- BITS, 0x18 (R410). -/
  | bits
  /-- TO2BIT, 0x19 (R411). -/
  | to2bit
  /-- FROM2BIT, 0x1A (R412). -/
  | from2bit
  /-- ROTL1, 0x1B (R413). -/
  | rotl1
  /-- XOREXC VAL, IDX, 0x1C (R414): the byte value and the index of the byte left unchanged. -/
  | xorexc (val : Byte) (idx : Nat)
deriving DecidableEq, Repr

/-- The mnemonic of a command as spec/opcode_table.json and R308 spell it. -/
def Instr.mnemonic : Instr → String
  | .nop => "NOP"
  | .setkey => "SETKEY"
  | .setkeystr => "SETKEYSTR"
  | .setkeyhex => "SETKEYHEX"
  | .genkey => "GENKEY"
  | .encryptEcb => "ENCRYPT.ECB"
  | .encryptCbc => "ENCRYPT.CBC"
  | .decryptEcb => "DECRYPT.ECB"
  | .decryptCbc => "DECRYPT.CBC"
  | .encblk => "ENCBLK"
  | .decblk => "DECBLK"
  | .gloria => "GLORIA"
  | .boxgens => "BOXGENS"
  | .boxgenp => "BOXGENP"
  | .mix => "MIX"
  | .fold => "FOLD"
  | .kiss => "KISS"
  | .kiss2 => "KISS2"
  | .bits => "BITS"
  | .to2bit => "TO2BIT"
  | .from2bit => "FROM2BIT"
  | .rotl1 => "ROTL1"
  | .xorexc _ _ => "XOREXC"

end Sys2Proof
end

