-- ==== Sys2Proof/WellFormed.lean ====
section
/-! DEFINITION. Which command terms have an encoding: IDX is an index 0..15 (R301, R302). VAL is a byte by its type,
and no other command has a field. -/

namespace Sys2Proof

/-- A command whose fields fit the command word of R301. -/
def Instr.wellFormed : Instr → Bool
  | .xorexc _ idx => decide (idx < 16)
  | .nop | .setkey | .setkeystr | .setkeyhex | .genkey | .encryptEcb | .encryptCbc | .decryptEcb | .decryptCbc
  | .encblk | .decblk | .gloria | .boxgens | .boxgenp | .mix | .fold | .kiss | .kiss2 | .bits | .to2bit
  | .from2bit | .rotl1 => true

end Sys2Proof
end

