-- ==== Sys2Proof/Decode.lean ====
section
/-! DEFINITION. Decoding a command word (R301 to R307), total and rejecting by name, and the encoder (R304, R308). -/

namespace Sys2Proof

/-- Why a command word is no command: the first two steps of R305, or its third. -/
inductive DecodeError where
  /-- Unassigned opcode or a reserved bit set (R305 steps 1 and 2, R306). -/
  | badCommand
  /-- Format M with MODE 2 or 3 (R305 step 3, R307). -/
  | invalidMode
deriving DecidableEq, Repr

/-- What an assigned opcode stands for: one command of format N, the two modes of format M, or format X (R301). -/
inductive OpcodeEntry where
  | formatN (i : Instr)
  | formatM (ecb cbc : Instr)
  | formatX
deriving DecidableEq, Repr

/-- OP, bits 7:0 (R301). -/
def opField (w : Word) : Byte := w.extractLsb' 0 8

/-- MODE, bits 9:8 (R301). -/
def modeField (w : Word) : TwoBit := w.extractLsb' 8 2

/-- VAL, bits 23:16 (R301). -/
def valField (w : Word) : Byte := w.extractLsb' 16 8

/-- IDX, bits 27:24, an unsigned index (R301, R302). -/
def idxField (w : Word) : Nat := (w.extractLsb' 24 4).toNat

/-- The assigned opcodes (R304). -/
def opcodeTable : List (Byte × OpcodeEntry) :=
  [ (0x00#8, .formatN .nop),
    (0x01#8, .formatN .setkey),
    (0x02#8, .formatN .setkeystr),
    (0x03#8, .formatN .setkeyhex),
    (0x04#8, .formatN .genkey),
    (0x08#8, .formatM .encryptEcb .encryptCbc),
    (0x09#8, .formatM .decryptEcb .decryptCbc),
    (0x0A#8, .formatN .encblk),
    (0x0B#8, .formatN .decblk),
    (0x0C#8, .formatN .gloria) ] ++
  [ (0x10#8, .formatN .boxgens),
    (0x11#8, .formatN .boxgenp),
    (0x12#8, .formatN .mix),
    (0x13#8, .formatN .fold),
    (0x14#8, .formatN .kiss),
    (0x15#8, .formatN .kiss2),
    (0x18#8, .formatN .bits),
    (0x19#8, .formatN .to2bit),
    (0x1A#8, .formatN .from2bit),
    (0x1B#8, .formatN .rotl1),
    (0x1C#8, .formatX) ]

/-- Steps 2 and 3 of R305 for an assigned opcode: the reserved bits of the format are zero, then the mode is legal. -/
def decodeEntry (w : Word) : OpcodeEntry → Except DecodeError Instr
  | .formatN i => if w.extractLsb' 8 24 = 0 then .ok i else .error .badCommand
  | .formatM ecb cbc =>
    if w.extractLsb' 10 22 = 0 then
      if modeField w = 0 then .ok ecb
      else if modeField w = 1 then .ok cbc
      else .error .invalidMode
    else .error .badCommand
  | .formatX =>
    if w.extractLsb' 28 4 = 0 ∧ w.extractLsb' 8 8 = 0 then .ok (.xorexc (valField w) (idxField w))
    else .error .badCommand

/-- Decoding of a command word (R305). -/
def decode (w : Word) : Except DecodeError Instr :=
  match opcodeTable.lookup (opField w) with
  | none => .error .badCommand
  | some e => decodeEntry w e

/-- The command word of a command (R304, R308). -/
def encode : Instr → Word
  | .nop => 0x00000000
  | .setkey => 0x00000001
  | .setkeystr => 0x00000002
  | .setkeyhex => 0x00000003
  | .genkey => 0x00000004
  | .encryptEcb => 0x00000008
  | .encryptCbc => 0x00000108
  | .decryptEcb => 0x00000009
  | .decryptCbc => 0x00000109
  | .encblk => 0x0000000A
  | .decblk => 0x0000000B
  | .gloria => 0x0000000C
  | .boxgens => 0x00000010
  | .boxgenp => 0x00000011
  | .mix => 0x00000012
  | .fold => 0x00000013
  | .kiss => 0x00000014
  | .kiss2 => 0x00000015
  | .bits => 0x00000018
  | .to2bit => 0x00000019
  | .from2bit => 0x0000001A
  | .rotl1 => 0x0000001B
  | .xorexc val idx => (BitVec.ofNat 32 idx <<< 24) ||| (val.setWidth 32 <<< 16) ||| 0x1C#32

/-- The word a row of spec/opcode_table.json numbers: its `nbits` low bits, every higher bit zero. -/
def tableWord (nbits w : Nat) : Word := BitVec.ofNat 32 (w % 2 ^ nbits)

/-- The command the decoder reads from a table word; none where it refuses. -/
def decodeTableWord (nbits w : Nat) : Option Instr := (decode (tableWord nbits w)).toOption

end Sys2Proof
end

