-- ==== Sys2Proof/Config.lean ====
section
/-! DEFINITION. The parameters of an instance (R12) and the free values (93_implementation_defined.md section 3).
A constant without a body is a free value: nothing can evaluate it, so a claim holds whatever it is. -/

namespace Sys2Proof

/-- The two readings of "apply PBox" (R458, D14). -/
inductive PBoxForm where
  | gather
  | scatter
deriving DecidableEq, Repr

/-- The parameters of R12 that have a value: a core instance carries them in `State.params`, and no step changes them
(logs 4, 5). The generator and its reset seed are the free constants below, and LATENCY is the schedule (log 19). -/
structure Params where
  /-- DMEM_BYTES, the size of the data memory (R12, R208). -/
  dmemBytes : Nat
  /-- PBOX_FORM (R12, R458). -/
  pboxForm : PBoxForm
deriving DecidableEq, Repr

/-- The values R12 allows: DMEM_BYTES is a multiple of 4 from 8224 to 0x7FFF0000. -/
abbrev Params.legal (p : Params) : Prop :=
  p.dmemBytes % 4 = 0 ∧ 8224 ≤ p.dmemBytes ∧ p.dmemBytes ≤ 0x7FFF0000

/-- The defaults of R12. -/
def Params.default : Params where
  dmemBytes := 65536
  pboxForm := .gather

/-- The type of generator states (R600). DESIGN CHOICE (log 6): the states of an instance's generator are
numbered by natural numbers, which every hardware generator's state set can be. -/
abbrev PrngState := Nat

namespace Config

/-- `prng_seed` of R600: OPEN, a free value (log 6). -/
opaque prngSeed : Word → PrngState

/-- `prng_next` of R600: OPEN, a free value (log 6). -/
opaque prngNext : PrngState → Byte × PrngState

/-- PRNG_RESET_SEED of R605: OPEN, a free value (log 7). -/
opaque prngResetSeed : Word

/-- What DMEM byte `addr` holds after the hardware reset number `epoch`, until it is written: a free value (R208, log 3). -/
opaque dmemPowerUp : (epoch : Nat) → (addr : Nat) → Byte

/-- The word an unspecified read while BUSY returns: a free value for each draw (R907, log 8). -/
opaque busyReadWord : (draw : Nat) → Word

/-- What a byte of an aborted command's destination range holds: a free value for each draw and address (R903, log 9). -/
opaque abortedByte : (draw : Nat) → (addr : Nat) → Byte

/-- The generator's state after an abort of a drawing command: a free value for each draw (R903, log 10). -/
opaque abortedPrng : (draw : Nat) → PrngState

end Config

end Sys2Proof
end

