-- ==== Sys2Proof/Machine/State.lean ====
section
/-! DEFINITION. The state of one core instance (R101), as plain data, its reset value (R900), and the reasons a step could stop. -/

namespace Sys2Proof.Machine

/-- The status codes of STATUS.ERR (R805). Codes 9 to 255 are never written, so they have no constructor. -/
inductive StatusCode where
  | ok
  | invalidKeyLength
  | invalidMode
  | keyNotSet
  | badCommand
  | badRange
  | badLength
  | padRange
  | invalidKeyFormat
deriving DecidableEq, Repr

/-- Reasons the machine stops with a fault. None: the core has no traps (60_exceptions.md), every failed command
completes with a status code (R804) and every refused transaction is answered with `err = 1` (R809). DEDUCED (log 17), safe. -/
inductive Fault where
deriving DecidableEq, Repr

/-- Reasons for having no meaning. -/
inductive Refusal where
  /-- Raised by an arm of `exec` for an instruction without a meaning; no arm raises it. Safe. -/
  | notModelled (mnemonic : String)
deriving DecidableEq, Repr

/-- Data memory: the bytes written so far, as (offset, byte) pairs (R208). The canonical form is `Memory.wf`. -/
abbrev Memory := List Host.Cell

/-- A host bus transaction (R200). -/
structure Txn where
  addr : Word
  write : Bool
  wdata : Word
deriving DecidableEq, Repr

/-- The answer to a transaction (R200): a read answers data and `err`, a write answers `err` only. -/
inductive Reply where
  | read (rdata : Word) (err : Bool)
  | write (err : Bool)
deriving DecidableEq, Repr

/-- What may happen next (R100): a host transaction, the core's turn, or a pulse on the reset input (log 1). -/
inductive Event where
  | bus (t : Txn)
  | coreTurn
  | rst
deriving DecidableEq, Repr

/-- The stored host-visible registers (R110 to R120). ID is a constant, PRNG_SEED and CTRL.SRST store nothing,
KEY0..3, STATUS.KEY_VALID and STATUS.REV_VALID are views of the session. -/
structure Registers where
  /-- CTRL.IE (R111). -/
  ie : Bool
  /-- STATUS.BUSY (R112). -/
  busy : Bool
  /-- STATUS.DONE (R112). -/
  done : Bool
  /-- STATUS.ERR (R112, R805). -/
  err : StatusCode
  /-- CMD (R113). -/
  cmd : Word
  /-- SRC (R114). -/
  src : Word
  /-- LEN (R115). -/
  len : Word
  /-- DST (R116). -/
  dst : Word
  /-- OUTLEN (R117). -/
  outlen : Word
  /-- KEY_IN0 .. KEY_IN3 (R119). -/
  keyIn : Vector Word 4
deriving DecidableEq, Repr

/-- The session state (R130 to R135). -/
structure Session where
  /-- S.KEY_VALID (R130). -/
  keyValid : Bool
  /-- S.KEY, 16 bytes (R131). -/
  key : Bytes
  /-- S.KS, 2048 bytes; XA and XB are views of it (R132). -/
  ks : Bytes
  /-- S.SBOX, 256 entries (R133). -/
  sbox : SBox
  /-- S.PBOX, 64 entries (R134). -/
  pbox : PBox
  /-- S.RSBOX, 256 entries (R135). -/
  rsbox : SBox
  /-- S.RPBOX, 64 entries (R135). -/
  rpbox : PBox
  /-- S.REV_VALID (R135). -/
  revValid : Bool
deriving DecidableEq, Repr

/-- S.PENDING: the snapshot of the command in progress (R103, R800). -/
structure Pending where
  word : Word
  src : Word
  len : Word
  dst : Word
  keyIn : Vector Word 4
deriving DecidableEq, Repr

/-- The state of one core instance (R101), and the model's own bookkeeping of what the outside does and of free values. -/
structure State where
  /-- The instance's parameters (R12). No step changes them. -/
  params : Params
  /-- The host-visible registers. -/
  regs : Registers
  /-- The session state. -/
  session : Session
  /-- S.PRNG (R140). -/
  prng : PrngState
  /-- S.PENDING (R103). -/
  pending : Pending
  /-- DMEM: the bytes written since the last hardware reset (R208). -/
  dmem : Memory
  /-- The model's own: which power-up draw the unlisted bytes of DMEM belong to (log 13). -/
  dmemEpoch : Nat
  /-- The model's own: the index of the next free value (log 13). -/
  freeDraws : Nat
  /-- The model's own: the events still to come, oldest first (log 1). -/
  inbox : List Event
  /-- The model's own: the answers given on the bus, newest first (log 18). -/
  replies : List Reply
deriving DecidableEq, Repr

/-- The registers after reset (R110 to R120). -/
def Registers.reset : Registers where
  ie := false
  busy := false
  done := false
  err := .ok
  cmd := 0
  src := 0
  len := 0
  dst := 0
  outlen := 0
  keyIn := #v[0, 0, 0, 0]

/-- The identity S-box (R133). -/
def identitySBox : SBox := (List.range 256).map (BitVec.ofNat 8)

/-- The identity P-box (R134). -/
def identityPBox : PBox := (List.range 64).map (BitVec.ofNat 6)

/-- The session state after hardware reset (R130 to R135). RSBOX and RPBOX are unspecified there;
DESIGN CHOICE (log 11), unsafe: the identity. -/
def Session.reset : Session where
  keyValid := false
  key := List.replicate 16 0
  ks := List.replicate 2048 0
  sbox := identitySBox
  pbox := identityPBox
  rsbox := identitySBox
  rpbox := identityPBox
  revValid := false

/-- S.PENDING after reset is unspecified and unused (R103). DESIGN CHOICE (log 12), unsafe: zeros. -/
def Pending.reset : Pending where
  word := 0
  src := 0
  len := 0
  dst := 0
  keyIn := #v[0, 0, 0, 0]

/-- An instance with parameters `p` right after hardware reset (R900). -/
def State.resetOf (p : Params) : State where
  params := p
  regs := Registers.reset
  session := Session.reset
  prng := Config.prngSeed Config.prngResetSeed
  pending := Pending.reset
  dmem := []
  dmemEpoch := 0
  freeDraws := 1
  inbox := []
  replies := []

/-- The instance with the default parameters right after hardware reset (R12, R900). -/
def State.reset : State := State.resetOf Params.default

/-- The outcome of a step or of a meaning. -/
abbrev Result := Host.Outcome State Fault Refusal

end Sys2Proof.Machine
end

