-- ==== Sys2Proof/Machine/Ops.lean ====
section
/-! DEFINITION. The shared operations: data memory (R208 to R210), byte lanes (R202), acceptance (R800), success (R803)
and error completion (R804), which is what the core has in place of taking an exception (R810). There is no return from it (R811). -/

namespace Sys2Proof.Machine

/-- The canonical form of a data memory of `size` bytes: offsets strictly rising and inside DMEM. An unlisted offset has not been written
since the last hardware reset, and no entry says that, so equal memories are equal lists (log 3). -/
abbrev Memory.wf (size : Nat) (m : Memory) : Prop :=
  m.Pairwise (fun c c' => c.1 < c'.1) ∧ ∀ c ∈ m, c.1 < size

/-- The byte written last at an offset, none if nothing was written there since the last hardware reset. -/
def Memory.written (m : Memory) (a : Nat) : Option Byte := m.lookup a

/-- The cells of a byte string laid down from offset `a`. -/
def Memory.run : Nat → Bytes → Memory
  | _, [] => []
  | a, b :: bs => (a, b) :: Memory.run (a + 1) bs

/-- `MemWrite` on the memory itself (R210): the bytes of `v` replace those at `a ..< a + |v|`. -/
def Memory.store (m : Memory) (a : Nat) (v : Bytes) : Memory :=
  m.filter (fun c => decide (c.1 < a)) ++ Memory.run a v ++ m.filter (fun c => decide (a + v.length ≤ c.1))

/-- `InRange(a, n)` for a data memory of `size` bytes (R209), on unbounded numbers. -/
def inRange (size a n : Nat) : Bool := decide (a + n ≤ size)

/-- One byte of DMEM. A byte nothing has written reads as its power-up value, which is free (R208, log 3). -/
def State.readByte (s : State) (a : Nat) : Byte :=
  match Memory.written s.dmem a with
  | some b => b
  | none => Config.dmemPowerUp s.dmemEpoch a

/-- `MemRead(a, n)` (R210). -/
def State.memRead (s : State) (a n : Nat) : Bytes := (List.range n).map fun i => s.readByte (a + i)

/-- `MemWrite(a, |v|, v)` (R210). -/
def State.memWrite (s : State) (a : Nat) (v : Bytes) : State := { s with dmem := Memory.store s.dmem a v }

/-- The bytes of a word in their lanes, byte `i` in bits `8i+7 : 8i` (R202). -/
def wordBytes (w : Word) : Bytes :=
  [w.extractLsb' 0 8, w.extractLsb' 8 8, w.extractLsb' 16 8, w.extractLsb' 24 8]

/-- The word whose lane `i` holds byte `off + i` of a region (R202). -/
def laneWord (byteAt : Nat → Byte) (off : Nat) : Word :=
  (byteAt off).setWidth 32 ||| ((byteAt (off + 1)).setWidth 32 <<< 8) |||
    ((byteAt (off + 2)).setWidth 32 <<< 16) ||| ((byteAt (off + 3)).setWidth 32 <<< 24)

/-- `Accept(w)` (R800). -/
def accept (w : Word) (s : State) : State :=
  { s with
    pending := { word := w, src := s.regs.src, len := s.regs.len, dst := s.regs.dst, keyIn := s.regs.keyIn }
    regs := { s.regs with cmd := w, done := false, err := .ok, busy := true } }

/-- The register effects of `Complete(OK, n)` (R803); the command's writes are already in `s`. -/
def completeOk (n : Nat) (s : State) : State :=
  { s with regs := { s.regs with outlen := BitVec.ofNat 32 n, err := .ok, busy := false, done := true } }

/-- Error completion (R804): nothing changes but OUTLEN and STATUS. -/
def raiseError (c : StatusCode) (s : State) : State :=
  { s with regs := { s.regs with outlen := 0, err := c, busy := false, done := true } }

/-- The command ends successfully in the state `s`, with output length `n`. -/
def finish (n : Nat) (s : State) : Result := .next (completeOk n s)

/-- `raise Error(c)` in the state `s` the command began in. -/
def fail (c : StatusCode) (s : State) : Result := .next (raiseError c s)

/-- The command writes the bytes `v` at DST and ends successfully with output length `|v|` (R803). -/
def finishWrite (v : Bytes) (s : State) : Result := finish v.length (s.memWrite s.pending.dst.toNat v)

/-- The status code of a word the decoder refuses (R305). -/
def decodeErrorCode : DecodeError → StatusCode
  | .badCommand => .badCommand
  | .invalidMode => .invalidMode

end Sys2Proof.Machine
end

