-- ==== Sys2Proof/Machine/Operands.lean ====
section
/-! DEFINITION. The operand forms: which snapshot registers a command names, its ranges and lengths (R302, R304), and the
checks made before any data is read, in the order of R807. -/

namespace Sys2Proof.Machine

/-- The byte count checked at SRC for LEN, none for a command that does not name SRC (R304). -/
def srcBytes : Instr → Nat → Option Nat
  | .nop, _ => none
  | .setkey, _ => none
  | .setkeystr, _ => some 16
  | .setkeyhex, _ => some 32
  | .genkey, _ => none
  | .encryptEcb, len => some len
  | .encryptCbc, len => some len
  | .decryptEcb, len => some len
  | .decryptCbc, len => some len
  | .encblk, _ => some 16
  | .decblk, _ => some 16
  | .gloria, _ => none
  | .boxgens, _ => some 1216
  | .boxgenp, _ => some 320
  | .mix, _ => some 2048
  | .fold, _ => some 2048
  | .kiss, _ => some 16
  | .kiss2, _ => some 16
  | .bits, len => some len
  | .to2bit, _ => some 16
  | .from2bit, _ => some 64
  | .rotl1, _ => some 256
  | .xorexc _ _, _ => some 16

/-- The byte count checked at DST for LEN, none for a command that does not name DST (R304, R657, R661). -/
def dstBytes : Instr → Nat → Option Nat
  | .nop, _ => none
  | .setkey, _ => none
  | .setkeystr, _ => none
  | .setkeyhex, _ => none
  | .genkey, _ => none
  | .encryptEcb, len => some (len + 16 - len % 16)
  | .encryptCbc, len => some (len + 16 - len % 16 + 16)
  | .decryptEcb, len => some len
  | .decryptCbc, len => some (len - 16)
  | .encblk, _ => some 16
  | .decblk, _ => some 16
  | .gloria, _ => some 16
  | .boxgens, _ => some 256
  | .boxgenp, _ => some 64
  | .mix, _ => some 2048
  | .fold, _ => some 16
  | .kiss, _ => some 2048
  | .kiss2, _ => some 2048
  | .bits, len => some (8 * len)
  | .to2bit, _ => some 64
  | .from2bit, _ => some 16
  | .rotl1, _ => some 256
  | .xorexc _ _, _ => some 16

/-- Whether the command fails with KEY_NOT_SET when S.KEY_VALID = 0 (R304, R130). -/
def needsKey : Instr → Bool
  | .encryptEcb | .encryptCbc | .decryptEcb | .decryptCbc | .encblk | .decblk => true
  | .nop | .setkey | .setkeystr | .setkeyhex | .genkey | .gloria | .boxgens | .boxgenp | .mix | .fold | .kiss
  | .kiss2 | .bits | .to2bit | .from2bit | .rotl1 | .xorexc _ _ => false

/-- The error LEN alone raises: R703, R704 and R657. -/
def lengthError : Instr → Nat → Option StatusCode
  | .setkeystr, len => if len = 16 then none else some .invalidKeyLength
  | .setkeyhex, len => if len = 32 then none else some .invalidKeyLength
  | .decryptEcb, len => if len % 16 = 0 ∧ 16 ≤ len then none else some .badLength
  | .decryptCbc, len => if len % 16 = 0 ∧ 16 ≤ len - 16 then none else some .badLength
  | .nop, _ | .setkey, _ | .genkey, _ | .encryptEcb, _ | .encryptCbc, _ | .encblk, _ | .decblk, _ | .gloria, _
  | .boxgens, _ | .boxgenp, _ | .mix, _ | .fold, _ | .kiss, _ | .kiss2, _ | .bits, _ | .to2bit, _ | .from2bit, _
  | .rotl1, _ | .xorexc _ _, _ => none

/-- A range a command names is inside DMEM; a range it does not name is not checked (R302, R209). -/
def rangeOk (size : Nat) (a : Word) : Option Nat → Bool
  | none => true
  | some n => inRange size a.toNat n

/-- The checks on the snapshot and the session before any data is read: key, length, range (R807 items 3 to 5). -/
def precheck (i : Instr) (s : State) : Option StatusCode :=
  if needsKey i && !s.session.keyValid then some .keyNotSet
  else match lengthError i s.pending.len.toNat with
    | some c => some c
    | none =>
      if rangeOk s.params.dmemBytes s.pending.src (srcBytes i s.pending.len.toNat) &&
        rangeOk s.params.dmemBytes s.pending.dst (dstBytes i s.pending.len.toNat)
      then none else some .badRange

/-- A command's frame: its checks, then its effect. -/
def guarded (i : Instr) (s : State) (effect : State → Result) : Result :=
  match precheck i s with
  | some c => fail c s
  | none => effect s

/-- `MemRead(SRC, n)` with the snapshot's SRC (R17). -/
def srcRead (n : Nat) (s : State) : Bytes := s.memRead s.pending.src.toNat n

/-- `MemRead(SRC, LEN)` with the snapshot's SRC and LEN (R17). -/
def srcReadLen (s : State) : Bytes := srcRead s.pending.len.toNat s

/-- The 16 key bytes of a KEY_IN snapshot: byte `4w + b` is bits `8b+7 : 8b` of word `w` (R119, R702). -/
def keyInBytes (k : Vector Word 4) : Bytes := k.toList.flatMap wordBytes

end Sys2Proof.Machine
end

