-- ==== Sys2Proof/Machine/Flags.lean ====
section
/-! DEFINITION. The flags: STATUS as a word (R112), CTRL as a word (R111) and the interrupt output (R808). -/

namespace Sys2Proof.Machine

/-- The value of a status code in STATUS.ERR (R805). -/
def StatusCode.code : StatusCode → Byte
  | .ok => 0
  | .invalidKeyLength => 1
  | .invalidMode => 2
  | .keyNotSet => 3
  | .badCommand => 4
  | .badRange => 5
  | .badLength => 6
  | .padRange => 7
  | .invalidKeyFormat => 8

/-- A flag at bit `k` of a word. -/
def flagAt (b : Bool) (k : Nat) : Word := if b then 1#32 <<< k else 0

/-- STATUS (R112): BUSY at bit 0, DONE at 1, KEY_VALID at 2, REV_VALID at 3, ERR at 15:8, the rest 0. -/
def statusWord (s : State) : Word :=
  flagAt s.regs.busy 0 ||| flagAt s.regs.done 1 ||| flagAt s.session.keyValid 2 ||| flagAt s.session.revValid 3 |||
    (s.regs.err.code.setWidth 32 <<< 8)

/-- CTRL (R111): IE at bit 0; SRST and the reserved bits read 0. -/
def ctrlWord (s : State) : Word := flagAt s.regs.ie 0

/-- The interrupt output (R808). -/
def State.irq (s : State) : Bool := s.regs.done && s.regs.ie

end Sys2Proof.Machine
end

