-- ==== Sys2Proof/Machine/BitOps.lean ====
section
/-! DEFINITION. The bit-operation primitives (R400 to R406) and the commands BITS, TO2BIT, FROM2BIT, ROTL1, XOREXC
(R410 to R414). -/

namespace Sys2Proof.Machine

/-- `Bit(b, k)`: bit `7 − k` of the byte (R400). -/
def byteBit (b : Byte) (k : Nat) : Bool := b.getLsbD (7 - k)

/-- `BytesToBits(B)` (R401). -/
def bytesToBits (bs : Bytes) : List Bool := bs.flatMap fun b => (List.range 8).map (byteBit b)

/-- `Group(b, k)`: bits `7−2k : 6−2k` of the byte (R402). -/
def byteGroup (b : Byte) (k : Nat) : TwoBit := b.extractLsb' (6 - 2 * k) 2

/-- `BytesTo2Bit(B)` (R403). -/
def bytesTo2Bit (bs : Bytes) : List TwoBit := bs.flatMap fun b => (List.range 4).map (byteGroup b)

/-- `(g0 << 6) | (g1 << 4) | (g2 << 2) | g3` (R404). -/
def joinGroups (g0 g1 g2 g3 : TwoBit) : Byte :=
  (g0.setWidth 8 <<< 6) ||| (g1.setWidth 8 <<< 4) ||| (g2.setWidth 8 <<< 2) ||| g3.setWidth 8

/-- `TwoBitToBytes(G)` on groups 0..3 (R404); `G mod 4` is taken where a byte becomes a group, see `byteMod4`. -/
def twoBitToBytes : List TwoBit → Bytes
  | g0 :: g1 :: g2 :: g3 :: gs => joinGroups g0 g1 g2 g3 :: twoBitToBytes gs
  | _ => []

/-- `G[i] mod 4` of a byte of the FROM2BIT input (R404). -/
def byteMod4 (b : Byte) : TwoBit := b.setWidth 2

/-- `RotL1(B)` (R405). -/
def rotL1 (bs : Bytes) : Bytes := bs.map fun (b : Byte) => ((b <<< 1) ||| (b >>> 7) : Byte)

/-- `XorExcept(B, v, s)` (R406). -/
def xorExcept (bs : Bytes) (v : Byte) (skip : Nat) : Bytes := bs.mapIdx fun j b => if j = skip then b else b ^^^ v

/-- `A ⊕ B` (R15). -/
def xorBytes (a b : Bytes) : Bytes := List.zipWith (· ^^^ ·) a b

/-- `Block(B, m)` (R15). -/
def block (bs : Bytes) (m : Nat) : Bytes := (bs.drop (16 * m)).take 16

/-- A bit as the byte 0x00 or 0x01 (R410). -/
def bitByte (b : Bool) : Byte := if b then 1 else 0

/-- BITS (R410). -/
def execBits (s : State) : Result :=
  guarded .bits s fun s => finishWrite ((bytesToBits (srcReadLen s)).map bitByte) s

/-- TO2BIT (R411). -/
def execTo2bit (s : State) : Result :=
  guarded .to2bit s fun s => finishWrite ((bytesTo2Bit (srcRead 16 s)).map (BitVec.setWidth 8)) s

/-- FROM2BIT (R412). -/
def execFrom2bit (s : State) : Result :=
  guarded .from2bit s fun s => finishWrite (twoBitToBytes ((srcRead 64 s).map byteMod4)) s

/-- ROTL1 (R413). -/
def execRotl1 (s : State) : Result :=
  guarded .rotl1 s fun s => finishWrite (rotL1 (srcRead 256 s)) s

/-- XOREXC VAL, IDX (R414). -/
def execXorexc (val : Byte) (idx : Nat) (s : State) : Result :=
  guarded (.xorexc val idx) s fun s => finishWrite (xorExcept (srcRead 16 s) val idx) s

end Sys2Proof.Machine
end

