-- ==== Sys2Proof/Machine/BoxGen.lean ====
section
/-! DEFINITION. Box generation ("TeaParty", R450 to R455), box application (R456 to R459), and the commands BOXGENS and
BOXGENP (R460, R461). -/

namespace Sys2Proof.Machine

/-- The elements whose bit is `want`, in order: one bucket of a TeaParty round (R451). -/
def bucket {α : Type} (want : Bool) : List α → List Bool → List α
  | x :: xs, t :: ts => if t = want then x :: bucket want xs ts else bucket want xs ts
  | _, _ => []

/-- One TeaParty round: bucket 0, then bucket 1 (R451). -/
def teaRound {α : Type} (seq : List α) (bits : List Bool) : List α := bucket false seq bits ++ bucket true seq bits

/-- `TeaParty` on a starting sequence: each round uses the next `|seq|` bits of the stream (R450, R451). -/
def teaParty {α : Type} : (rounds : Nat) → (seq : List α) → (stream : List Bool) → List α
  | 0, seq, _ => seq
  | r + 1, seq, stream => teaParty r (teaRound seq (stream.take seq.length)) (stream.drop seq.length)

/-- `GenSBox(seed)`: 38 rounds over 256 elements (R452). -/
def genSBox (seed : Bytes) : SBox := teaParty 38 identitySBox (bytesToBits seed)

/-- `GenPBox(seed)`: 40 rounds over 64 elements (R453). -/
def genPBox (seed : Bytes) : PBox := teaParty 40 identityPBox (bytesToBits seed)

/-- `Inverse(X)` of a permutation of `0..N−1`: entry `v` is the position where `X` holds `v` (R456). -/
def inverseBox {w : Nat} (x : List (BitVec w)) : List (BitVec w) :=
  (List.range x.length).map fun v => BitVec.ofNat w (x.idxOf (BitVec.ofNat w v))

/-- `SApply(B, S)` (R457). -/
def sApply (bs : Bytes) (sb : SBox) : Bytes := bs.map fun b => sb.getD b.toNat 0

/-- The groups of a block moved by a P-box (R458): GATHER takes group `P[i]` to position `i`, SCATTER group `i` to `P[i]`. -/
def moveGroups : PBoxForm → List TwoBit → PBox → List TwoBit
  | .gather, g, p => p.map fun k => g.getD k.toNat 0
  | .scatter, g, p => (p.zip g).foldl (fun h kg => h.set kg.1.toNat kg.2) (List.replicate 64 0)

/-- `PApply(B, P)` (R458). -/
def pApply (form : PBoxForm) (bs : Bytes) (p : PBox) : Bytes := twoBitToBytes (moveGroups form (bytesTo2Bit bs) p)

/-- BOXGENS (R460). -/
def execBoxgens (s : State) : Result :=
  guarded .boxgens s fun s => finishWrite (genSBox (srcRead 1216 s)) s

/-- BOXGENP (R461): one entry per byte, bits 7:6 zero. -/
def execBoxgenp (s : State) : Result :=
  guarded .boxgenp s fun s => finishWrite ((genPBox (srcRead 320 s)).map (BitVec.setWidth 8)) s

end Sys2Proof.Machine
end

