-- ==== Sys2Proof/Machine/Round.lean ====
section
/-! DEFINITION. The round function (R550 to R554) and the commands ENCBLK and DECBLK (R555, R556). -/

namespace Sys2Proof.Machine

/-- An engine (R550). -/
structure Engine where
  sb : SBox
  pb : PBox
  xa : Bytes
  xb : Bytes
deriving DecidableEq, Repr

/-- XorStreamA of a schedule: bytes 1536 ..< 1792 (R132). -/
def xorStreamA (ks : Bytes) : Bytes := (ks.drop 1536).take 256

/-- XorStreamB of a schedule: bytes 1792 ..< 2048 (R132). -/
def xorStreamB (ks : Bytes) : Bytes := (ks.drop 1792).take 256

/-- The production engine (R550). -/
def State.engine (s : State) : Engine where
  sb := s.session.sbox
  pb := s.session.pbox
  xa := xorStreamA s.session.ks
  xb := xorStreamB s.session.ks

/-- The stream index `k(c, j) = 16·(c − 1) + j` (R550). -/
def streamIndex (c j : Nat) : Nat := 16 * (c - 1) + j

/-- The byte step of cycle `c` of encryption: XOR A, substitute, XOR B (R551). -/
def encBytes (e : Engine) (c : Nat) (b : Bytes) : Bytes :=
  b.mapIdx fun j x => e.sb.getD (x ^^^ e.xa.getD (streamIndex c j) 0).toNat 0 ^^^ e.xb.getD (streamIndex c j) 0

/-- Cycle `c` of encryption: the P-box first in an even cycle (R551). -/
def encCycle (form : PBoxForm) (e : Engine) (c : Nat) (b : Bytes) : Bytes :=
  encBytes e c (if c % 2 = 0 then pApply form b e.pb else b)

/-- `EncBlock(E, B)`: cycles 1 to 16 (R551). -/
def encBlock (form : PBoxForm) (e : Engine) (b : Bytes) : Bytes :=
  (List.range 16).foldl (fun x c => encCycle form e (c + 1) x) b

/-- The byte step of cycle `c` of decryption: XOR B, substitute in reverse, XOR A (R552). -/
def decBytes (e : Engine) (rs : SBox) (c : Nat) (b : Bytes) : Bytes :=
  b.mapIdx fun j x => rs.getD (x ^^^ e.xb.getD (streamIndex c j) 0).toNat 0 ^^^ e.xa.getD (streamIndex c j) 0

/-- Cycle `c` of decryption: the reverse P-box last in an even cycle (R552). -/
def decCycle (form : PBoxForm) (e : Engine) (rs : SBox) (rp : PBox) (c : Nat) (b : Bytes) : Bytes :=
  if c % 2 = 0 then pApply form (decBytes e rs c b) rp else decBytes e rs c b

/-- `DecBlock(E, RS, RP, B)`: cycles 16 down to 1 (R552). -/
def decBlock (form : PBoxForm) (e : Engine) (rs : SBox) (rp : PBox) (b : Bytes) : Bytes :=
  (List.range 16).reverse.foldl (fun x c => decCycle form e rs rp (c + 1) x) b

/-- The reverse boxes are derived from the production boxes and cached (R136, R556, R661). -/
def deriveReverse (s : State) : State :=
  { s with session := { s.session with
      rsbox := inverseBox s.session.sbox, rpbox := inverseBox s.session.pbox, revValid := true } }

/-- `Enc(x)` under the production engine (R650). -/
def sessionEnc (s : State) (b : Bytes) : Bytes := encBlock s.params.pboxForm s.engine b

/-- `Dec(x)` under the production engine and the inverses of its boxes (R650). -/
def sessionDec (s : State) (b : Bytes) : Bytes :=
  decBlock s.params.pboxForm s.engine (inverseBox s.session.sbox) (inverseBox s.session.pbox) b

/-- ENCBLK (R555). -/
def execEncblk (s : State) : Result :=
  guarded .encblk s fun s => finishWrite (sessionEnc s (srcRead 16 s)) s

/-- DECBLK (R556). -/
def execDecblk (s : State) : Result :=
  guarded .decblk s fun s => finishWrite (sessionDec s (srcRead 16 s)) (deriveReverse s)

end Sys2Proof.Machine
end

