-- ==== Sys2Proof/Machine/KeySchedule.lean ====
section
/-! DEFINITION. The key-schedule expander (R500 to R511) and the commands MIX, FOLD, KISS, KISS2 (R520 to R523). -/

namespace Sys2Proof.Machine

/-- The first `n` 16-byte blocks of a byte string (R500, R650). -/
def blocks (n : Nat) (bs : Bytes) : List Bytes := (List.range n).map (block bs)

/-- `MixPass(buf)` (R501): the S-box seed is read after the permutation. -/
def mixPass (form : PBoxForm) (buf : Bytes) : Bytes :=
  let p := genPBox (buf.take 320)
  let moved := (blocks 128 buf).flatMap fun b => pApply form b p
  sApply moved (genSBox (moved.take 1216))

/-- `Fold(buf)` (R502). -/
def foldBlocks (buf : Bytes) : Bytes := (blocks 128 buf).foldl xorBytes (List.replicate 16 0)

/-- `EngineOf(ks)` (R503). -/
def engineOf (ks : Bytes) : Engine where
  sb := genSBox (ks.take 1216)
  pb := genPBox ((ks.drop 1216).take 320)
  xa := xorStreamA ks
  xb := xorStreamB ks

/-- Stage A step 1: sixteen XOR passes (R504). -/
def xorPasses (k : Bytes) : Bytes := (List.range 16).flatMap fun i => xorExcept k (k.getD i 0) i

/-- `C` and its next rotations, `n` chunks in all: chunk `r` is RotL1 applied `r` times (R505). -/
def rotations : Nat → Bytes → Bytes
  | 0, _ => []
  | n + 1, c => c ++ rotations n (rotL1 c)

/-- `StageA(K)` (R504, R505). -/
def stageA (form : PBoxForm) (k : Bytes) : Bytes := mixPass form (mixPass form (rotations 8 (xorPasses k)))

/-- CBC-style chaining without the leading IV: each block XORed with the previous output (or the IV), then encrypted (R506, R654). -/
def cbcChain (enc : Bytes → Bytes) : (cv : Bytes) → List Bytes → Bytes
  | _, [] => []
  | cv, x :: xs => enc (xorBytes x cv) ++ cbcChain enc (enc (xorBytes x cv)) xs

/-- `StageB(K)` (R506): no padding, and the leading IV is dropped. -/
def stageB (form : PBoxForm) (k : Bytes) : Bytes :=
  let t := stageA form k
  let e2 := engineOf (stageA form (foldBlocks t))
  let iv := block t 127
  (iv ++ cbcChain (encBlock form e2) iv (blocks 128 t)).drop 16

/-- What `Derive(K)` returns (R507). -/
structure Derived where
  ks : Bytes
  sb : SBox
  pb : PBox
deriving DecidableEq, Repr

/-- `Derive(K)` (R507). -/
def derive (form : PBoxForm) (k : Bytes) : Derived :=
  let ks := stageB form k
  { ks := ks, sb := (engineOf ks).sb, pb := (engineOf ks).pb }

/-- MIX (R520). -/
def execMix (s : State) : Result :=
  guarded .mix s fun s => finishWrite (mixPass s.params.pboxForm (srcRead 2048 s)) s

/-- FOLD (R521). -/
def execFold (s : State) : Result :=
  guarded .fold s fun s => finishWrite (foldBlocks (srcRead 2048 s)) s

/-- KISS (R522). -/
def execKiss (s : State) : Result :=
  guarded .kiss s fun s => finishWrite (stageA s.params.pboxForm (srcRead 16 s)) s

/-- KISS2 (R523). -/
def execKiss2 (s : State) : Result :=
  guarded .kiss2 s fun s => finishWrite (stageB s.params.pboxForm (srcRead 16 s)) s

end Sys2Proof.Machine
end

