-- ==== Sys2Proof/Machine/Prng.lean ====
section
/-! DEFINITION. The pseudorandom block source (R600 to R607) and the command GLORIA (R610). The generator is an argument
of the functions; the machine passes the free one of Config. -/

namespace Sys2Proof.Machine

/-- `Draw(n)`: the bytes in order of drawing, and the generator's state after (R601). -/
def draw (next : PrngState → Byte × PrngState) : Nat → PrngState → Bytes × PrngState
  | 0, g => ([], g)
  | n + 1, g => ((next g).1 :: (draw next n (next g).2).1, (draw next n (next g).2).2)

/-- `Gloria()`: 2048 draws, three mix passes, a fold (R602). Irreducible, so that the unifier never runs the 2048 draws. -/
@[irreducible] def gloria (form : PBoxForm) (next : PrngState → Byte × PrngState) (g : PrngState) : Bytes × PrngState :=
  (foldBlocks (mixPass form (mixPass form (mixPass form (draw next 2048 g).1))), (draw next 2048 g).2)

/-- The block `Gloria()` returns in a state (R602). -/
def gloriaBlock (s : State) : Bytes := (gloria s.params.pboxForm Config.prngNext s.prng).1

/-- The state after `Gloria()`: only S.PRNG has moved (R603, R604). -/
def afterGloria (s : State) : State := { s with prng := (gloria s.params.pboxForm Config.prngNext s.prng).2 }

/-- Reseeding (R605). -/
def reseed (v : Word) (s : State) : State := { s with prng := Config.prngSeed v }

/-- GLORIA (R610). -/
def execGloria (s : State) : Result :=
  guarded .gloria s fun s => finishWrite (gloriaBlock s) (afterGloria s)

end Sys2Proof.Machine
end

