-- ==== Sys2Proof/Machine/Resets.lean ====
section
/-! DEFINITION. Hardware reset (R900), soft reset (R902) and its effects on a command in progress (R903). -/

namespace Sys2Proof.Machine

/-- A command that draws from the generator (R604, R903). -/
def drawsGenerator : Instr → Bool
  | .genkey | .encryptCbc | .gloria => true
  | .nop | .setkey | .setkeystr | .setkeyhex | .encryptEcb | .decryptEcb | .decryptCbc | .encblk | .decblk | .boxgens
  | .boxgenp | .mix | .fold | .kiss | .kiss2 | .bits | .to2bit | .from2bit | .rotl1 | .xorexc _ _ => false

/-- The byte count of the destination range an abort may have touched (R903): the `n` of the command's `InRange(DST, n)`,
and only where every check up to BAD_RANGE passes; 0 otherwise. -/
def abortedBytes (i : Instr) (s : State) : Nat :=
  match precheck i s with
  | some _ => 0
  | none => (dstBytes i s.pending.len.toNat).getD 0

/-- The free bytes an abort leaves at `a ..< a + n` (R903, log 9). -/
def abortedRun (freeIndex a n : Nat) : Bytes := (List.range n).map fun j => Config.abortedByte freeIndex (a + j)

/-- The effects of aborting a decoded command (R903): its destination range and, if it draws, S.PRNG become free. -/
def abortInstr (i : Instr) (s : State) : State :=
  { s.memWrite s.pending.dst.toNat (abortedRun s.freeDraws s.pending.dst.toNat (abortedBytes i s)) with
    prng := if drawsGenerator i then Config.abortedPrng s.freeDraws else s.prng
    freeDraws := s.freeDraws + 1 }

/-- `AbortEffects()` (R903). A word that is no command has neither a destination nor a draw. -/
def abortEffects (s : State) : State :=
  match decode s.pending.word with
  | .ok i => abortInstr i s
  | .error _ => s

/-- The session after a soft reset (R902): forgotten; RSBOX and RPBOX are not assigned (log 11). -/
def forgetSession (ss : Session) : Session :=
  { ss with
    keyValid := false
    revValid := false
    key := List.replicate 16 0
    ks := List.replicate 2048 0
    sbox := identitySBox
    pbox := identityPBox }

/-- The register and session part of a soft reset (R902): DMEM and S.PRNG are kept. -/
def clearForSoftReset (s : State) : State :=
  { s with regs := Registers.reset, session := forgetSession s.session }

/-- `SoftReset()` (R902). -/
def softReset (s : State) : State := clearForSoftReset (if s.regs.busy then abortEffects s else s)

/-- Hardware reset (R900): every piece of state at its reset value, DMEM a fresh free draw (log 3); the instance's
parameters are no state (R12). What the outside holds
(the events to come and the answers given) is not the core's and stays (log 14). -/
def hardReset (s : State) : State :=
  { State.resetOf s.params with
    dmemEpoch := s.freeDraws
    freeDraws := s.freeDraws + 1
    inbox := s.inbox
    replies := s.replies }

end Sys2Proof.Machine
end

