-- ==== Sys2Proof/Machine/Bus.lean ====
section
/-! DEFINITION. Host bus transactions: the address map (R204), reads and writes of each target (R110 to R121, R202 to
R207), and what a busy core refuses or leaves unspecified (R906, R907). -/

namespace Sys2Proof.Machine

/-- What an aligned offset reaches (R204). A window or DMEM target carries the byte offset inside it. -/
inductive Target where
  | id
  | ctrl
  | status
  | cmd
  | src
  | len
  | dst
  | outlen
  | prngSeed
  | keyIn (w : Fin 4)
  | key (w : Fin 4)
  | ks (off : Nat)
  | sbox (off : Nat)
  | rsbox (off : Nat)
  | pbox (off : Nat)
  | rpbox (off : Nat)
  | dmem (off : Nat)
  | unmapped
deriving DecidableEq, Repr

/-- The register map (R110 to R120). -/
def registerMap : List (Nat × Target) :=
  [ (0x000, .id), (0x004, .ctrl), (0x008, .status), (0x00C, .cmd), (0x010, .src), (0x014, .len), (0x018, .dst),
    (0x01C, .outlen), (0x020, .prngSeed) ] ++
  [ (0x030, .keyIn 0), (0x034, .keyIn 1), (0x038, .keyIn 2), (0x03C, .keyIn 3),
    (0x040, .key 0), (0x044, .key 1), (0x048, .key 2), (0x04C, .key 3) ]

/-- The address map of an instance with `size` bytes of DMEM (R204, R121). -/
def target (size a : Nat) : Target :=
  if a < 0x1000 then (registerMap.lookup a).getD .unmapped
  else if a < 0x1800 then .ks (a - 0x1000)
  else if a < 0x1900 then .sbox (a - 0x1800)
  else if a < 0x1A00 then .rsbox (a - 0x1900)
  else if a < 0x1A40 then .pbox (a - 0x1A00)
  else if a < 0x1A80 then .rpbox (a - 0x1A40)
  else if a < 0x10000 then .unmapped
  else if a < 0x10000 + size then .dmem (a - 0x10000)
  else .unmapped

/-- What an offset reaches in this instance. -/
abbrev State.target (s : State) (a : Word) : Target := Machine.target s.params.dmemBytes a.toNat

/-- A 32-bit lane of a byte region shown to the host, 0 while the region is not valid (R207). -/
def windowWord (valid : Bool) (region : Bytes) (off : Nat) : Word :=
  if valid then laneWord (fun k => region.getD k 0) off else 0

/-- P-box entries as bytes, bits 7:6 zero (R204). -/
def entryBytes (p : PBox) : Bytes := p.map (BitVec.setWidth 8)

/-- The defined value of a target (R110 to R120, R204, R207). -/
def targetValue (s : State) : Target → Word
  | .id => 0x414E4731
  | .ctrl => ctrlWord s
  | .status => statusWord s
  | .cmd => s.regs.cmd
  | .src => s.regs.src
  | .len => s.regs.len
  | .dst => s.regs.dst
  | .outlen => s.regs.outlen
  | .prngSeed => 0
  | .keyIn w => s.regs.keyIn[w]
  | .key w => windowWord s.session.keyValid s.session.key (4 * w.val)
  | .ks off => windowWord s.session.keyValid s.session.ks off
  | .sbox off => windowWord s.session.keyValid s.session.sbox off
  | .rsbox off => windowWord s.session.revValid s.session.rsbox off
  | .pbox off => windowWord s.session.keyValid (entryBytes s.session.pbox) off
  | .rpbox off => windowWord s.session.revValid (entryBytes s.session.rpbox) off
  | .dmem off => laneWord s.readByte off
  | .unmapped => 0

/-- Targets whose read is unspecified while BUSY = 1 (R907). -/
def Target.unspecifiedWhileBusy : Target → Bool
  | .key _ | .ks _ | .sbox _ | .rsbox _ | .pbox _ | .rpbox _ | .dmem _ => true
  | .id | .ctrl | .status | .cmd | .src | .len | .dst | .outlen | .prngSeed | .keyIn _ | .unmapped => false

/-- Targets whose write is rejected while BUSY = 1 (R906). -/
def Target.rejectedWhileBusy : Target → Bool
  | .cmd | .src | .len | .dst | .keyIn _ | .prngSeed | .dmem _ => true
  | .id | .ctrl | .status | .outlen | .key _ | .ks _ | .sbox _ | .rsbox _ | .pbox _ | .rpbox _ | .unmapped => false

/-- A write of CTRL (R111): SRST = 1 is a soft reset, whatever IE says (R902); otherwise IE is written. -/
def writeCtrl (v : Word) (s : State) : State :=
  if v.getLsbD 1 then softReset s else { s with regs := { s.regs with ie := v.getLsbD 0 } }

/-- A write of STATUS (R112): writing 1 to DONE clears it. -/
def writeStatus (v : Word) (s : State) : State :=
  if v.getLsbD 1 then { s with regs := { s.regs with done := false } } else s

/-- The effect of a write the core takes (R110 to R120, R206, R208); a read-only target ignores it. -/
def writeTarget (v : Word) (s : State) : Target → State
  | .ctrl => writeCtrl v s
  | .status => writeStatus v s
  | .cmd => accept v s
  | .src => { s with regs := { s.regs with src := v } }
  | .len => { s with regs := { s.regs with len := v } }
  | .dst => { s with regs := { s.regs with dst := v } }
  | .prngSeed => reseed v s
  | .keyIn w => { s with regs := { s.regs with keyIn := s.regs.keyIn.set w v } }
  | .dmem off => s.memWrite off (wordBytes v)
  | .id | .outlen | .key _ | .ks _ | .sbox _ | .rsbox _ | .pbox _ | .rpbox _ | .unmapped => s

/-- The answer to a transaction is recorded (log 18). -/
def answer (r : Reply) (s : State) : State := { s with replies := r :: s.replies }

/-- A word offset is a multiple of 4 (R201). -/
def aligned (a : Word) : Bool := a.toNat % 4 = 0

/-- A read of a mapped target (R206, R907). -/
def readMapped (tgt : Target) (s : State) : State :=
  if s.regs.busy && tgt.unspecifiedWhileBusy then
    answer (.read (Config.busyReadWord s.freeDraws) false) { s with freeDraws := s.freeDraws + 1 }
  else answer (.read (targetValue s tgt) false) s

/-- A write of a mapped target (R206, R906). -/
def writeMapped (tgt : Target) (v : Word) (s : State) : State :=
  if s.regs.busy && tgt.rejectedWhileBusy then answer (.write true) s
  else answer (.write false) (writeTarget v s tgt)

/-- A bus error: recorded nowhere in the core (R201, R205, R809). -/
def busError (write : Bool) (s : State) : State := answer (if write then .write true else .read 0 true) s

/-- One host transaction (R200). -/
def busAccess (t : Txn) (s : State) : State :=
  if aligned t.addr && s.target t.addr != .unmapped then
    if t.write then writeMapped (s.target t.addr) t.wdata s else readMapped (s.target t.addr) s
  else busError t.write s

end Sys2Proof.Machine
end

