-- ==== Sys2Proof/Machine/Modes.lean ====
section
/-! DEFINITION. The mode layer: padding, ECB, CBC (R650 to R658), and the commands ENCRYPT and DECRYPT (R660, R661). -/

namespace Sys2Proof.Machine

/-- `Blocks(D)` (R650). -/
def blocksOf (d : Bytes) : List Bytes := blocks (d.length / 16) d

/-- The pad length `16 − (|D| mod 16)` (R651). -/
def padLength (d : Bytes) : Nat := 16 - d.length % 16

/-- `Pad(D)` (R651). -/
def pad (d : Bytes) : Bytes := d ++ List.replicate (padLength d) (BitVec.ofNat 8 (padLength d))

/-- `Unpad(Q)`; none is PAD_RANGE (R652). The pad's content is not examined. -/
def unpad (q : Bytes) : Option Bytes :=
  let c := (q.getD (q.length - 1) 0).toNat
  if c > q.length then none else some (q.take (q.length - c))

/-- `EcbEncrypt(D)` (R653). -/
def ecbEncrypt (enc : Bytes → Bytes) (d : Bytes) : Bytes := (blocksOf (pad d)).flatMap enc

/-- `CbcEncrypt(D, IV)` (R654). -/
def cbcEncrypt (enc : Bytes → Bytes) (d iv : Bytes) : Bytes := iv ++ cbcChain enc iv (blocksOf (pad d))

/-- `EcbDecrypt(Y)` (R655). -/
def ecbDecrypt (dec : Bytes → Bytes) (y : Bytes) : Option Bytes := unpad ((blocksOf y).flatMap dec)

/-- The plaintext of CBC before unpadding: each block after the first, decrypted and XORed with the one before it (R656). -/
def cbcPlain (dec : Bytes → Bytes) (y : Bytes) : Bytes :=
  (List.range (y.length / 16 - 1)).flatMap fun m => xorBytes (dec (block y (m + 1))) (block y m)

/-- `CbcDecrypt(Y)` (R656). -/
def cbcDecrypt (dec : Bytes → Bytes) (y : Bytes) : Option Bytes := unpad (cbcPlain dec y)

/-- The end of a DECRYPT: PAD_RANGE, or the plaintext at DST and the reverse boxes cached (R661). -/
def finishDecrypt (plain : Option Bytes) (s : State) : Result :=
  match plain with
  | none => fail .padRange s
  | some p => finishWrite p (deriveReverse s)

/-- ENCRYPT.ECB (R660). -/
def execEncryptEcb (s : State) : Result :=
  guarded .encryptEcb s fun s => finishWrite (ecbEncrypt (sessionEnc s) (srcReadLen s)) s

/-- ENCRYPT.CBC (R660): the IV is one `Gloria()`. -/
def execEncryptCbc (s : State) : Result :=
  guarded .encryptCbc s fun s =>
    finishWrite (cbcEncrypt (sessionEnc s) (srcReadLen s) (gloriaBlock s)) (afterGloria s)

/-- DECRYPT.ECB (R661). -/
def execDecryptEcb (s : State) : Result :=
  guarded .decryptEcb s fun s => finishDecrypt (ecbDecrypt (sessionDec s) (srcReadLen s)) s

/-- DECRYPT.CBC (R661). -/
def execDecryptCbc (s : State) : Result :=
  guarded .decryptCbc s fun s => finishDecrypt (cbcDecrypt (sessionDec s) (srcReadLen s)) s

end Sys2Proof.Machine
end

