-- ==== Sys2Proof/Machine/Session.lean ====
section
/-! DEFINITION. Key establishment (R700, R706) and the commands NOP, SETKEY, SETKEYSTR, SETKEYHEX, GENKEY (R701 to R705). -/

namespace Sys2Proof.Machine

/-- The session after `CommitKey(K)`: everything derived in one step, the reverse boxes stale (R700). -/
def commitSession (d : Derived) (k : Bytes) (ss : Session) : Session :=
  { ss with key := k, ks := d.ks, sbox := d.sb, pbox := d.pb, keyValid := true, revValid := false }

/-- `CommitKey(K)` (R700). -/
def commitKey (k : Bytes) (s : State) : State :=
  { s with session := commitSession (derive s.params.pboxForm k) k s.session }

/-- `IsHexDigit(c)` (R704). -/
def isHexDigit (c : Byte) : Bool :=
  (0x30 ≤ c.toNat && c.toNat ≤ 0x39) || (0x41 ≤ c.toNat && c.toNat ≤ 0x46) || (0x61 ≤ c.toNat && c.toNat ≤ 0x66)

/-- `HexVal(c)` of a hex digit (R704). -/
def hexVal (c : Byte) : Nat :=
  if c.toNat ≤ 0x39 then c.toNat - 0x30 else if c.toNat ≤ 0x46 then c.toNat - 0x41 + 10 else c.toNat - 0x61 + 10

/-- The key bytes of a hex text: the first digit of a pair is the high nibble (R704). -/
def hexKey (t : Bytes) : Bytes :=
  (List.range 16).map fun i => BitVec.ofNat 8 (16 * hexVal (t.getD (2 * i) 0) + hexVal (t.getD (2 * i + 1) 0))

/-- NOP (R701). -/
def execNop (s : State) : Result := guarded .nop s (finish 0)

/-- SETKEY (R702). -/
def execSetkey (s : State) : Result :=
  guarded .setkey s fun s => finish 0 (commitKey (keyInBytes s.pending.keyIn) s)

/-- SETKEYSTR (R703). -/
def execSetkeystr (s : State) : Result :=
  guarded .setkeystr s fun s => finish 0 (commitKey (srcRead 16 s) s)

/-- SETKEYHEX (R704). -/
def execSetkeyhex (s : State) : Result :=
  guarded .setkeyhex s fun s =>
    if (srcRead 32 s).all isHexDigit then finish 0 (commitKey (hexKey (srcRead 32 s)) s)
    else fail .invalidKeyFormat s

/-- GENKEY (R705). -/
def execGenkey (s : State) : Result :=
  guarded .genkey s fun s => finish 0 (commitKey (gloriaBlock s) (afterGloria s))

end Sys2Proof.Machine
end

