-- ==== Sys2Proof/Machine/Dispatch.lean ====
section
/-! DEFINITION. The dispatch: one arm per command (R802 step 1). -/

namespace Sys2Proof.Machine

/-- The completion step's evaluation of a decoded command over the snapshot S.PENDING (R802). -/
def exec (i : Instr) (s : State) : Host.Outcome State Fault Refusal :=
  match i with
  | .nop => Sys2Proof.Machine.execNop s
  | .setkey => Sys2Proof.Machine.execSetkey s
  | .setkeystr => Sys2Proof.Machine.execSetkeystr s
  | .setkeyhex => Sys2Proof.Machine.execSetkeyhex s
  | .genkey => Sys2Proof.Machine.execGenkey s
  | .encryptEcb => Sys2Proof.Machine.execEncryptEcb s
  | .encryptCbc => Sys2Proof.Machine.execEncryptCbc s
  | .decryptEcb => Sys2Proof.Machine.execDecryptEcb s
  | .decryptCbc => Sys2Proof.Machine.execDecryptCbc s
  | .encblk => Sys2Proof.Machine.execEncblk s
  | .decblk => Sys2Proof.Machine.execDecblk s
  | .gloria => Sys2Proof.Machine.execGloria s
  | .boxgens => Sys2Proof.Machine.execBoxgens s
  | .boxgenp => Sys2Proof.Machine.execBoxgenp s
  | .mix => Sys2Proof.Machine.execMix s
  | .fold => Sys2Proof.Machine.execFold s
  | .kiss => Sys2Proof.Machine.execKiss s
  | .kiss2 => Sys2Proof.Machine.execKiss2 s
  | .bits => Sys2Proof.Machine.execBits s
  | .to2bit => Sys2Proof.Machine.execTo2bit s
  | .from2bit => Sys2Proof.Machine.execFrom2bit s
  | .rotl1 => Sys2Proof.Machine.execRotl1 s
  | .xorexc val idx => Sys2Proof.Machine.execXorexc val idx s

end Sys2Proof.Machine
end

