-- ==== Sys2Proof/Machine/Completion.lean ====
section
/-! DEFINITION. The two agents' moves: the core's completion step (R802), and one event of the schedule (R100, R214). -/

namespace Sys2Proof.Machine

/-- The completion step (R802): decode the snapshot's word, then run the command, or complete with the decoder's error. -/
def complete (s : State) : Result :=
  match decode s.pending.word with
  | .ok i => exec i s
  | .error e => fail (decodeErrorCode e) s

/-- The core's turn: its step is enabled only while BUSY = 1 (R100); an idle core keeps its state (R817). -/
def coreTurn (s : State) : Result := if s.regs.busy then complete s else .next s

/-- One event, already taken off the inbox. -/
def perform (e : Event) (s : State) : Result :=
  match e with
  | .bus t => .next (busAccess t s)
  | .coreTurn => coreTurn s
  | .rst => .next (hardReset s)

/-- The next event of the schedule; with none left it is the core's turn (R910: a busy core completes eventually, log 19). -/
def advance (s : State) : Result :=
  match s.inbox with
  | [] => coreTurn s
  | e :: es => perform e { s with inbox := es }

/-- A command word accepted (R800) with the core to move next: what stands for the fetch of an instruction (log 2). -/
def acceptForCore (w : Word) (s : State) : State := { accept w s with inbox := .coreTurn :: s.inbox }

end Sys2Proof.Machine
end

