-- ==== Sys2Proof/Machine/Step.lean ====
section
/-! DEFINITION. One step of the machine (R100), and how a command word is placed where the next step runs it. -/

namespace Sys2Proof.Machine

/-- One step: the next event of the schedule. -/
def step (s : State) : Host.Outcome State Fault Refusal := advance s

/-- The state in which the very next step completes the command word `w`: the core fetches nothing (R216), so the word is
accepted as a CMD write accepts it (R800) and the core moves next (log 2). -/
def State.withFetchWord (s : State) (nbits w : Nat) : State := acceptForCore (tableWord nbits w) s

end Sys2Proof.Machine
end

