-- ==== Sys2Proof/Machine/HostProgram.lean ====
section
/-! DEFINITION. The host-program notation (R308 to R310): each statement expands to events of the schedule. -/

namespace Sys2Proof.Machine

/-- A statement of a host program (R309, R310). `wait` carries how many polls see BUSY = 1 before the core completes:
the schedule is free there (log 20). -/
inductive HostStmt where
  | wr (addr : Nat) (value : Word)
  | rd (addr : Nat)
  | wait (busyPolls : Nat)
  | run (i : Instr) (src len dst : Option Word) (busyPolls : Nat)
  | load (d : Nat) (bytes : Bytes)
  | keyin (key : Bytes)
  | ack
deriving DecidableEq, Repr

/-- A write transaction (R309). -/
def wrEvent (addr : Nat) (v : Word) : Event := .bus { addr := BitVec.ofNat 32 addr, write := true, wdata := v }

/-- A read transaction (R309). -/
def rdEvent (addr : Nat) : Event := .bus { addr := BitVec.ofNat 32 addr, write := false, wdata := 0 }

/-- `WAIT` (R310): reads of STATUS until one sees BUSY = 0. -/
def waitEvents (busyPolls : Nat) : List Event :=
  List.replicate busyPolls (rdEvent 0x008) ++ [.coreTurn, rdEvent 0x008]

/-- Words of a byte string, short last word filled with zero bytes (R310 LOAD). -/
def lanesOf (n : Nat) (bytes : Bytes) : List Word :=
  (List.range n).map fun k => laneWord (fun i => bytes.getD i 0) (4 * k)

/-- Writes of consecutive words from an offset. -/
def wrWords (addr : Nat) (ws : List Word) : List Event := ws.mapIdx fun k w => wrEvent (addr + 4 * k) w

/-- An operand write of RUN, if the operand is given (R310). -/
def operandEvent (addr : Nat) : Option Word → List Event
  | none => []
  | some v => [wrEvent addr v]

/-- The expansion of a statement (R310). -/
def HostStmt.events : HostStmt → List Event
  | .wr a v => [wrEvent a v]
  | .rd a => [rdEvent a]
  | .wait n => waitEvents n
  | .run i src len dst n =>
    operandEvent 0x010 src ++ operandEvent 0x014 len ++ operandEvent 0x018 dst ++ [wrEvent 0x00C (encode i)] ++ waitEvents n
  | .load d bytes => wrWords (0x10000 + d) (lanesOf ((bytes.length + 3) / 4) bytes)
  | .keyin key => wrWords 0x030 (lanesOf 4 key)
  | .ack => [wrEvent 0x008 0x00000002]

/-- A host program's events. -/
def programEvents (p : List HostStmt) : List Event := p.flatMap HostStmt.events

end Sys2Proof.Machine
end

