-- ==== Sys2Proof/Safety.lean ====
section
/-! DEFINITION. What a good state is (the invariant of the core), and what a host that keeps R908 does. -/

namespace Sys2Proof.Machine

/-- `x` is a permutation of `0..2^w − 1` as `w`-bit entries (R133, R134). -/
def isPermutation (w : Nat) (x : List (BitVec w)) : Prop := x.Perm ((List.range (2 ^ w)).map (BitVec.ofNat w))

/-- The invariant of every state reached from reset. -/
structure Inv (s : State) : Prop where
  /-- The parameters are ones R12 allows. -/
  params : s.params.legal
  /-- DMEM is in canonical form and inside its size (R208). -/
  memory : Memory.wf s.params.dmemBytes s.dmem
  /-- S.KEY is 16 bytes (R131). -/
  keyLength : s.session.key.length = 16
  /-- S.KS is 2048 bytes (R132). -/
  ksLength : s.session.ks.length = 2048
  /-- S.SBOX is a permutation of 0..255 (R133). -/
  sboxPerm : isPermutation 8 s.session.sbox
  /-- S.PBOX is a permutation of 0..63 (R134). -/
  pboxPerm : isPermutation 6 s.session.pbox
  /-- While a key is set, the derived state is the derivation of the key (R137). -/
  derived : s.session.keyValid = true →
    { ks := s.session.ks, sb := s.session.sbox, pb := s.session.pbox } = derive s.params.pboxForm s.session.key
  /-- While REV_VALID = 1, a key is set and the reverse boxes are the inverses (R135, R136). -/
  reverse : s.session.revValid = true → s.session.keyValid = true ∧
    s.session.rsbox = inverseBox s.session.sbox ∧ s.session.rpbox = inverseBox s.session.pbox
  /-- While BUSY = 1, DONE and ERR are 0 (R800, R907). -/
  busyFlags : s.regs.busy = true → s.regs.done = false ∧ s.regs.err = .ok
  /-- While BUSY = 1, the snapshot is what the registers hold (R216, R906). -/
  snapshot : s.regs.busy = true →
    s.pending = { word := s.regs.cmd, src := s.regs.src, len := s.regs.len, dst := s.regs.dst, keyIn := s.regs.keyIn }
  /-- OUTLEN never exceeds the data memory (R803). -/
  outlen : s.regs.outlen.toNat ≤ s.params.dmemBytes

/-- The transaction is one a host that keeps R908 makes in this state: while BUSY = 1 it writes no operand and reads no
output; at any time it is aligned and mapped. -/
def disciplined (t : Txn) (s : State) : Bool :=
  aligned t.addr && s.target t.addr != .unmapped &&
    !(s.regs.busy && (if t.write then (s.target t.addr).rejectedWhileBusy
                      else (s.target t.addr).unspecifiedWhileBusy))

/-- A step is safe if the machine answers a next state. -/
def stepsSafely (s : State) : Prop := ∃ t, step s = .next t

end Sys2Proof.Machine
end

