-- ==== Sys2Proof/Certificates/Slice0/Obligations.lean ====
section
/-! DEFINITION. The statements for the provers, and the few words they are written in. -/

namespace Sys2Proof.Claims

open Sys2Proof.Machine

/-- The snapshot's SRC, LEN and DST as numbers (R17). -/
abbrev srcOf (s : State) : Nat := s.pending.src.toNat
/-- See `srcOf`. -/
abbrev lenOf (s : State) : Nat := s.pending.len.toNat
/-- See `srcOf`. -/
abbrev dstOf (s : State) : Nat := s.pending.dst.toNat

/-- Byte `k` of the source range. -/
abbrev srcByte (s : State) (k : Nat) : Byte := s.readByte (srcOf s + k)

/-- The first `n` bytes of the source range. -/
def srcInput (s : State) (n : Nat) : Bytes := (List.range n).map (srcByte s)

/-- A range of `n` bytes at `a` lies in the instance's DMEM (R209). -/
abbrev Fits (s : State) (a n : Nat) : Prop := a + n ≤ s.params.dmemBytes

/-- The registers after a success with output length `n` (R803). -/
def okRegs (s : State) (n : Nat) : Registers :=
  { s.regs with outlen := BitVec.ofNat 32 n, err := .ok, busy := false, done := true }

/-- The state after an error completion (R804): OUTLEN, ERR, BUSY and DONE, nothing else. -/
def errState (c : StatusCode) (s : State) : State :=
  { s with regs := { s.regs with outlen := 0, err := c, busy := false, done := true } }

/-- What no command touches: the instance's parameters, the snapshot, the schedule, the answers given and the free-value bookkeeping. -/
def Untouched (s t : State) : Prop :=
  t.params = s.params ∧ t.pending = s.pending ∧ t.dmemEpoch = s.dmemEpoch ∧ t.freeDraws = s.freeDraws ∧
    t.inbox = s.inbox ∧ t.replies = s.replies

/-- The command succeeded with output length `n` and wrote exactly the `n` bytes of `v` at DST (R803, R210). -/
def WroteAtDst (s t : State) (n : Nat) (v : Bytes) : Prop :=
  v.length = n ∧ t.regs = okRegs s n ∧
  (∀ j, j < n → t.readByte (dstOf s + j) = v.getD j 0) ∧
  (∀ a, a < dstOf s ∨ dstOf s + n ≤ a → t.readByte a = s.readByte a) ∧ Untouched s t

/-- A component command's success: the output at DST, session and generator as before. -/
def Computed (s t : State) (n : Nat) (v : Bytes) : Prop :=
  WroteAtDst s t n v ∧ t.session = s.session ∧ t.prng = s.prng

/-- A key command's success: the session is `ss`, no byte of DMEM changes, OUTLEN is 0. -/
def Established (s t : State) (ss : Session) (g : PrngState) : Prop :=
  t.session = ss ∧ t.prng = g ∧ t.regs = okRegs s 0 ∧ (∀ a, t.readByte a = s.readByte a) ∧ Untouched s t

/-- The session `CommitKey(K)` leaves (R700, R503, R507): the schedule is Stage B of the key and the boxes come from its parts.
RSBOX and RPBOX, unspecified while REV_VALID = 0 (R135), keep their values by the model's choice (log 11). -/
def sessionOfKey (f : PBoxForm) (ss : Session) (k : Bytes) : Session :=
  { ss with
    key := k
    ks := stageB f k
    sbox := genSBox ((stageB f k).take 1216)
    pbox := genPBox (((stageB f k).drop 1216).take 320)
    keyValid := true
    revValid := false }

/-- The session with the reverse boxes cached (R556, R661). -/
def sessionReversed (ss : Session) : Session :=
  { ss with rsbox := inverseBox ss.sbox, rpbox := inverseBox ss.pbox, revValid := true }

/-- The generator after `n` draws (R601). -/
def prngAfter (n : Nat) (g : PrngState) : PrngState := Nat.iterate (fun g => (Config.prngNext g).2) n g

/-- The block one `Gloria()` returns (R601, R602): draw `i` at position `i`, three mix passes, the fold. -/
def gloriaOf (f : PBoxForm) (g : PrngState) : Bytes :=
  foldBlocks (mixPass f (mixPass f (mixPass f
    ((List.range 2048).map fun i => (Config.prngNext (prngAfter i g)).1))))

/-- `Enc` and `Dec` under the production engine (R650). -/
def encOf (s : State) : Bytes → Bytes := encBlock s.params.pboxForm s.engine
/-- See `encOf`. -/
def decOf (s : State) : Bytes → Bytes :=
  decBlock s.params.pboxForm s.engine (inverseBox s.session.sbox) (inverseBox s.session.pbox)

/-- The decrypted bytes before unpadding, ECB (R655). -/
def ecbPlainOf (s : State) : Bytes :=
  (List.range (lenOf s / 16)).flatMap fun m => decOf s (block (srcInput s (lenOf s)) m)

/-- The decrypted bytes before unpadding, CBC (R656). -/
def cbcPlainOf (s : State) : Bytes :=
  (List.range (lenOf s / 16 - 1)).flatMap fun m =>
    xorBytes (decOf s (block (srcInput s (lenOf s)) (m + 1))) (block (srcInput s (lenOf s)) m)

/-- The pad count: the last decrypted byte (R652). -/
def padCount (q : Bytes) : Nat := (q.getD (q.length - 1) 0).toNat

/-- The commands that fail with KEY_NOT_SET (R805). -/
def keyedCommands : List Instr := [.encryptEcb, .encryptCbc, .decryptEcb, .decryptCbc, .encblk, .decblk]

/-- The commands that establish a key (R130). -/
def keyCommands : List Instr := [.setkey, .setkeystr, .setkeyhex, .genkey]

/-- The commands that derive the reverse boxes (R136). -/
def decryptCommands : List Instr := [.decryptEcb, .decryptCbc, .decblk]

/-- The commands that draw from the generator (R604). -/
def drawingCommands : List Instr := [.genkey, .encryptCbc, .gloria]

/-- The commands without a key whose SRC and DST ranges do not depend on LEN: bytes in, bytes out (R304). -/
def fixedRanges : List (Instr × Nat × Nat) :=
  [ (.boxgens, 1216, 256), (.boxgenp, 320, 64), (.mix, 2048, 2048), (.fold, 2048, 16), (.kiss, 16, 2048),
    (.kiss2, 16, 2048), (.to2bit, 16, 64), (.from2bit, 64, 16), (.rotl1, 256, 256) ]

/-- The mask and match of every row of the opcode table (R305). -/
def tableRows : List (Word × Word) :=
  (0xF000FFFF#32, 0x0000001C#32) ::
    ([ 0x00, 0x01, 0x02, 0x03, 0x04, 0x08, 0x108, 0x09, 0x109, 0x0A, 0x0B, 0x0C, 0x10, 0x11, 0x12, 0x13, 0x14, 0x15,
       0x18, 0x19, 0x1A, 0x1B ].map fun m => (0xFFFFFFFF#32, BitVec.ofNat 32 m))

/-- Offsets of the register page that are mapped (R110 to R121). -/
def registerOffsets : List Nat :=
  [0x000, 0x004, 0x008, 0x00C, 0x010, 0x014, 0x018, 0x01C, 0x020, 0x030, 0x034, 0x038, 0x03C, 0x040, 0x044, 0x048, 0x04C]

/-- An offset the address map of R204 leaves unmapped. -/
def Unmapped (s : State) (a : Nat) : Prop :=
  (a < 0x1000 ∧ a ∉ registerOffsets) ∨ (0x1A80 ≤ a ∧ a < 0x10000) ∨ 0x10000 + s.params.dmemBytes ≤ a

/-- Offsets whose read is unspecified while BUSY = 1: KEY0..3, the windows and DMEM (R907). -/
abbrev HiddenWhileBusy (s : State) (a : Nat) : Prop :=
  (0x040 ≤ a ∧ a < 0x050) ∨ (0x1000 ≤ a ∧ a < 0x1A80) ∨ (0x10000 ≤ a ∧ a < 0x10000 + s.params.dmemBytes)

/-- The state after a transaction that changes nothing in the core and is answered `r`. -/
def answered (s : State) (rest : List Event) (r : Reply) : State := { s with inbox := rest, replies := r :: s.replies }

/-- A write and a read transaction. -/
def writeTo (a : Word) (v : Word) : Event := .bus { addr := a, write := true, wdata := v }
/-- See `writeTo`. -/
def readFrom (a : Word) (v : Word) : Event := .bus { addr := a, write := false, wdata := v }

/-- The registers after a reset of either kind (R110 to R120). -/
def resetRegs : Registers := ⟨false, false, false, .ok, 0, 0, 0, 0, 0, #v[0, 0, 0, 0]⟩

/-- The session a soft reset leaves (R902): the key forgotten, the reverse boxes not assigned. -/
def forgotten (ss : Session) : Session :=
  { ss with keyValid := false, revValid := false, key := List.replicate 16 0, ks := List.replicate 2048 0,
            sbox := (List.range 256).map (BitVec.ofNat 8), pbox := (List.range 64).map (BitVec.ofNat 6) }

/-- The three things a bit-exact STATUS word shows (R112). -/
def ShowsStatus (s : State) (v : Word) : Prop :=
  v.getLsbD 0 = s.regs.busy ∧ v.getLsbD 1 = s.regs.done ∧ v.getLsbD 2 = s.session.keyValid ∧
  v.getLsbD 3 = s.session.revValid ∧ v.extractLsb' 4 4 = 0 ∧ v.extractLsb' 8 8 = s.regs.err.code ∧
  v.extractLsb' 16 16 = 0

/-- A word shows four bytes of a region from `off` in its lanes (R202). -/
def ShowsLanes (v : Word) (byteAt : Nat → Byte) (off : Nat) : Prop :=
  ∀ k, k < 4 → v.extractLsb' (8 * k) 8 = byteAt (off + k)

/-- It is the core's turn: the schedule says so, or nothing is left in it; `rest` is what remains. -/
def CoreMovesNext (s : State) (rest : List Event) : Prop :=
  s.inbox = .coreTurn :: rest ∨ (s.inbox = [] ∧ rest = [])

end Sys2Proof.Claims

open Sys2Proof Sys2Proof.Machine Sys2Proof.Claims

/-! ### Encoding -/

/-- Decoding an encoded well-formed command gives it back, every operand at every value (R301, R305, R308). -/
def Obligations.DecodeOfEncodeIsTheCommand : Prop :=
  ∀ i : Instr, i.wellFormed = true → decode (encode i) = .ok i

/-- A word that decodes to a command is that command's one encoding, and the command is well formed. -/
def Obligations.EncodeOfDecodeIsTheWord : Prop :=
  ∀ (w : Word) (i : Instr), decode w = .ok i → encode i = w ∧ i.wellFormed = true

/-- A word decodes to a command exactly when some row of the opcode table selects it by mask and match (R305). -/
def Obligations.WordsDecodeExactlyWhenARowMatches : Prop :=
  ∀ w : Word, (∃ i, decode w = .ok i) ↔ ∃ r ∈ tableRows, w &&& r.1 = r.2

/-- The only words that are refused with INVALID_MODE (R307). -/
def Obligations.OnlyFourWordsHaveAnInvalidMode : Prop :=
  ∀ w : Word, decode w = .error .invalidMode ↔ w ∈ [0x208#32, 0x308#32, 0x209#32, 0x309#32]

/-- Words written out from R304 and R308 decode to the commands they stand for. -/
def Obligations.SampleWordsDecode : Prop :=
  decode 0x00000000#32 = .ok .nop ∧ decode 0x00000108#32 = .ok .encryptCbc ∧ decode 0x00000009#32 = .ok .decryptEcb ∧
  decode 0x03FF001C#32 = .ok (.xorexc 0xFF 3) ∧ decode 0x00000013#32 = .ok .fold ∧
  decode 0x08000000#32 = .error .badCommand ∧ decode 0x0000FC08#32 = .error .badCommand ∧
  decode 0x1000001C#32 = .error .badCommand

/-! ### Lifecycle -/

/-- On the core's turn with BUSY = 1, a step is the meaning of the command the snapshot's word decodes to (R802). -/
def Obligations.StepRunsTheDecodedCommand : Prop :=
  ∀ (s : State) (rest : List Event) (i : Instr), CoreMovesNext s rest → s.regs.busy = true →
    decode s.pending.word = .ok i → step s = exec i { s with inbox := rest }

/-- A word that is no command completes with BAD_COMMAND or INVALID_MODE and no other effect (R305, R306, R804). -/
def Obligations.UndecodableWordCompletesWithItsError : Prop :=
  ∀ (s : State) (rest : List Event) (e : DecodeError), CoreMovesNext s rest → s.regs.busy = true →
    decode s.pending.word = .error e →
    step s = .next (errState (match e with | .badCommand => .badCommand | .invalidMode => .invalidMode)
      { s with inbox := rest })

/-- A CMD write to an idle core accepts the word and takes the snapshot (R800). -/
def Obligations.CmdWriteIsAccepted : Prop :=
  ∀ (s : State) (rest : List Event) (w : Word), s.regs.busy = false → s.inbox = writeTo 0x00C w :: rest →
    step s = .next { s with
      inbox := rest
      replies := .write false :: s.replies
      pending := { word := w, src := s.regs.src, len := s.regs.len, dst := s.regs.dst, keyIn := s.regs.keyIn }
      regs := { s.regs with cmd := w, done := false, err := .ok, busy := true } }

/-- Every completion ends with BUSY = 0 and DONE = 1, keeps CTRL, CMD, SRC, LEN, DST and KEY_IN, and never stops (R802, R114 to R116). -/
def Obligations.EveryCompletionEndsAndKeepsOperands : Prop :=
  ∀ s : State, ∃ t, complete s = .next t ∧ Untouched s t ∧
    t.regs = { s.regs with outlen := t.regs.outlen, err := t.regs.err, busy := false, done := true }

/-- An error completion changes OUTLEN and STATUS only (R804). -/
def Obligations.ErrorCompletionIsPrecise : Prop :=
  ∀ s t : State, complete s = .next t → t.regs.err ≠ .ok → t = errState t.regs.err s

/-- No step stops the machine or changes the instance's parameters (R804, R809, R12). -/
def Obligations.NoStepStops : Prop :=
  ∀ s : State, stepsSafely s ∧ ∀ t, step s = .next t → t.params = s.params

/-! ### Errors, in the priority of R807 -/

/-- Without a key, the six keyed commands fail with KEY_NOT_SET, whatever LEN and the ranges are (R130, R807). -/
def Obligations.KeyedCommandsNeedAKey : Prop :=
  ∀ (i : Instr) (s : State), i ∈ keyedCommands → s.session.keyValid = false →
    exec i s = .next (errState .keyNotSet s)

/-- A LEN the command does not take: INVALID_KEY_LENGTH or BAD_LENGTH, whatever the ranges are (R703, R704, R657, R807). -/
def Obligations.WrongLengthsAreReported : Prop :=
  ∀ s : State,
    (lenOf s ≠ 16 → exec .setkeystr s = .next (errState .invalidKeyLength s)) ∧
    (lenOf s ≠ 32 → exec .setkeyhex s = .next (errState .invalidKeyLength s)) ∧
    (s.session.keyValid = true → ¬(16 ≤ lenOf s ∧ lenOf s % 16 = 0) →
      exec .decryptEcb s = .next (errState .badLength s)) ∧
    (s.session.keyValid = true → ¬(32 ≤ lenOf s ∧ lenOf s % 16 = 0) →
      exec .decryptCbc s = .next (errState .badLength s))

/-- A range outside DMEM: BAD_RANGE, with the byte counts of R304 and R657 on unbounded numbers (R209). -/
def Obligations.RangesOutsideDmemAreReported : Prop :=
  ∀ s : State,
    (∀ r ∈ fixedRanges, ¬(Fits s (srcOf s) r.2.1 ∧ Fits s (dstOf s) r.2.2) → exec r.1 s = .next (errState .badRange s)) ∧
    (∀ v idx, ¬(Fits s (srcOf s) 16 ∧ Fits s (dstOf s) 16) → exec (.xorexc v idx) s = .next (errState .badRange s)) ∧
    (¬(Fits s (srcOf s) (lenOf s) ∧ Fits s (dstOf s) (8 * lenOf s)) → exec .bits s = .next (errState .badRange s)) ∧
    (¬Fits s (dstOf s) 16 → exec .gloria s = .next (errState .badRange s)) ∧
    (lenOf s = 16 → ¬Fits s (srcOf s) 16 → exec .setkeystr s = .next (errState .badRange s)) ∧
    (lenOf s = 32 → ¬Fits s (srcOf s) 32 → exec .setkeyhex s = .next (errState .badRange s)) ∧
    (s.session.keyValid = true →
      (¬(Fits s (srcOf s) 16 ∧ Fits s (dstOf s) 16) →
        exec .encblk s = .next (errState .badRange s) ∧ exec .decblk s = .next (errState .badRange s)) ∧
      (¬(Fits s (srcOf s) (lenOf s) ∧ Fits s (dstOf s) (lenOf s + 16 - lenOf s % 16)) →
        exec .encryptEcb s = .next (errState .badRange s)) ∧
      (¬(Fits s (srcOf s) (lenOf s) ∧ Fits s (dstOf s) (16 + lenOf s + 16 - lenOf s % 16)) →
        exec .encryptCbc s = .next (errState .badRange s)) ∧
      (16 ≤ lenOf s → lenOf s % 16 = 0 → ¬(Fits s (srcOf s) (lenOf s) ∧ Fits s (dstOf s) (lenOf s)) →
        exec .decryptEcb s = .next (errState .badRange s)) ∧
      (32 ≤ lenOf s → lenOf s % 16 = 0 → ¬(Fits s (srcOf s) (lenOf s) ∧ Fits s (dstOf s) (lenOf s - 16)) →
        exec .decryptCbc s = .next (errState .badRange s)))

/-- Data errors: a non-hex byte in a 32-byte hex key, and a pad count larger than the decrypted bytes (R704, R652). -/
def Obligations.BadDataIsReported : Prop :=
  ∀ s : State,
    (lenOf s = 32 → Fits s (srcOf s) 32 → (∃ k, k < 32 ∧ isHexDigit (srcByte s k) = false) →
      exec .setkeyhex s = .next (errState .invalidKeyFormat s)) ∧
    (s.session.keyValid = true → 16 ≤ lenOf s → lenOf s % 16 = 0 → Fits s (srcOf s) (lenOf s) → Fits s (dstOf s) (lenOf s) →
      (ecbPlainOf s).length < padCount (ecbPlainOf s) → exec .decryptEcb s = .next (errState .padRange s)) ∧
    (s.session.keyValid = true → 32 ≤ lenOf s → lenOf s % 16 = 0 → Fits s (srcOf s) (lenOf s) →
      Fits s (dstOf s) (lenOf s - 16) → (cbcPlainOf s).length < padCount (cbcPlainOf s) →
      exec .decryptCbc s = .next (errState .padRange s))

/-! ### Frames over all commands -/

/-- No command changes a byte of DMEM outside the OUTLEN bytes at DST. The premises, legal parameters and the
P-box's length, hold in every state the invariant `Inv` admits. -/
def Obligations.CommandsWriteOnlyTheirOutputRange : Prop :=
  ∀ (i : Instr) (s t : State), s.params.legal → s.session.pbox.length = 64 → exec i s = .next t →
    ∀ a, a < dstOf s ∨ dstOf s + t.regs.outlen.toNat ≤ a → t.readByte a = s.readByte a

/-- Only a successful GENKEY, ENCRYPT.CBC or GLORIA draws from the generator, 2048 bytes each (R604). -/
def Obligations.OnlyThreeCommandsDraw : Prop :=
  ∀ (i : Instr) (s t : State), exec i s = .next t →
    t.prng = if i ∈ drawingCommands ∧ t.regs.err = .ok then prngAfter 2048 s.prng else s.prng

/-- Only key commands change the key and what is derived from it; only successful decrypts raise REV_VALID; a successful
key command sets KEY_VALID and clears REV_VALID (R130, R136, R603, R700, R706). RSBOX and RPBOX keep their values under it
by the model's choice (log 11). -/
def Obligations.SessionChangesOnlyAsFixed : Prop :=
  ∀ (i : Instr) (s t : State), exec i s = .next t →
    (i ∉ keyCommands → i ∉ decryptCommands → t.session = s.session) ∧
    (t.regs.err ≠ .ok → t.session = s.session) ∧
    (i ∈ decryptCommands → t.regs.err = .ok → t.session = sessionReversed s.session) ∧
    (i ∈ keyCommands → t.regs.err = .ok → t.session.keyValid = true ∧ t.session.revValid = false ∧
      t.session = sessionOfKey s.params.pboxForm s.session t.session.key)

/-! ### Results -/

/-- NOP is the word 0, does nothing and completes; its opcode with any other bit set is BAD_COMMAND (R701). -/
def Obligations.NopOnlyCompletes : Prop :=
  decode 0x00000000#32 = .ok .nop ∧
  (∀ w : Word, w.extractLsb' 0 8 = 0 → w ≠ 0 → decode w = .error .badCommand) ∧
  ∀ s : State, exec .nop s = .next { s with regs := okRegs s 0 }

/-- SETKEY takes the 16 bytes of KEY_IN0..3 and derives the session (R702, R700). RSBOX and RPBOX, unspecified from here on
(R135), keep their values by the model's choice (log 11). -/
def Obligations.SetkeyEstablishesKeyIn : Prop :=
  ∀ s : State, ∃ t, exec .setkey s = .next t ∧
    Established s t (sessionOfKey s.params.pboxForm s.session ((List.range 16).map fun i =>
      (s.pending.keyIn.toList.getD (i / 4) 0).extractLsb' (8 * (i % 4)) 8)) s.prng

/-- SETKEYSTR takes 16 bytes at SRC (R703). RSBOX and RPBOX keep their values by the model's choice (log 11). -/
def Obligations.SetkeystrEstablishesText : Prop :=
  ∀ s : State, lenOf s = 16 → Fits s (srcOf s) 16 → ∃ t, exec .setkeystr s = .next t ∧
    Established s t (sessionOfKey s.params.pboxForm s.session (srcInput s 16)) s.prng

/-- SETKEYHEX takes 32 hex digits at SRC, the first of a pair the high nibble (R704). RSBOX and RPBOX keep their values by the
model's choice (log 11). -/
def Obligations.SetkeyhexEstablishesHexText : Prop :=
  ∀ s : State, lenOf s = 32 → Fits s (srcOf s) 32 → (∀ k, k < 32 → isHexDigit (srcByte s k) = true) →
    ∃ t, exec .setkeyhex s = .next t ∧
      Established s t (sessionOfKey s.params.pboxForm s.session ((List.range 16).map fun i =>
        BitVec.ofNat 8 (16 * hexVal (srcByte s (2 * i)) + hexVal (srcByte s (2 * i + 1))))) s.prng

/-- GENKEY establishes one `Gloria()` block and advances the generator by 2048 draws (R705), for every generator (log 6).
RSBOX and RPBOX keep their values by the model's choice (log 11). -/
def Obligations.GenkeyEstablishesGloria : Prop :=
  ∀ s : State, ∃ t, exec .genkey s = .next t ∧
    Established s t (sessionOfKey s.params.pboxForm s.session (gloriaOf s.params.pboxForm s.prng)) (prngAfter 2048 s.prng)

/-- ENCBLK (R555). The P-box premise is part of `Inv`. -/
def Obligations.EncblkEncryptsOneBlock : Prop :=
  ∀ s : State, s.session.pbox.length = 64 → s.session.keyValid = true → Fits s (srcOf s) 16 → Fits s (dstOf s) 16 →
    ∃ t, exec .encblk s = .next t ∧ Computed s t 16 (encOf s (srcInput s 16))

/-- DECBLK decrypts one block and caches the reverse boxes (R556). -/
def Obligations.DecblkDecryptsOneBlock : Prop :=
  ∀ s : State, s.session.pbox.length = 64 → s.session.keyValid = true → Fits s (srcOf s) 16 → Fits s (dstOf s) 16 →
    ∃ t, exec .decblk s = .next t ∧ WroteAtDst s t 16 (decOf s (srcInput s 16)) ∧
      t.session = sessionReversed s.session ∧ t.prng = s.prng

/-- GLORIA writes one pseudorandom block and touches no box (R610, R603). -/
def Obligations.GloriaWritesOneBlock : Prop :=
  ∀ s : State, Fits s (dstOf s) 16 → ∃ t, exec .gloria s = .next t ∧ WroteAtDst s t 16 (gloriaOf s.params.pboxForm s.prng) ∧
    t.session = s.session ∧ t.prng = prngAfter 2048 s.prng

/-- ENCRYPT.ECB: padded blocks encrypted one by one, output length `L + 16 − L mod 16` (R653, R657, R660). -/
def Obligations.EncryptEcbWritesPaddedBlocks : Prop :=
  ∀ s : State, s.session.pbox.length = 64 → s.session.keyValid = true → Fits s (srcOf s) (lenOf s) →
    Fits s (dstOf s) (lenOf s + 16 - lenOf s % 16) →
    ∃ t, exec .encryptEcb s = .next t ∧
      Computed s t (lenOf s + 16 - lenOf s % 16) (ecbEncrypt (encOf s) (srcInput s (lenOf s)))

/-- ENCRYPT.CBC: the IV is one `Gloria()`, written first; output length `16 + L + 16 − L mod 16` (R654, R657, R660). -/
def Obligations.EncryptCbcWritesIvAndChain : Prop :=
  ∀ s : State, s.session.pbox.length = 64 → s.session.keyValid = true → Fits s (srcOf s) (lenOf s) →
    Fits s (dstOf s) (16 + lenOf s + 16 - lenOf s % 16) →
    ∃ t, exec .encryptCbc s = .next t ∧
      WroteAtDst s t (16 + lenOf s + 16 - lenOf s % 16)
        (cbcEncrypt (encOf s) (srcInput s (lenOf s)) (gloriaOf s.params.pboxForm s.prng)) ∧
      t.session = s.session ∧ t.prng = prngAfter 2048 s.prng

/-- DECRYPT.ECB: the decrypted bytes less the pad count, and the reverse boxes cached (R655, R657, R661). -/
def Obligations.DecryptEcbWritesUnpaddedBytes : Prop :=
  ∀ s : State, s.session.pbox.length = 64 → s.session.keyValid = true → 16 ≤ lenOf s → lenOf s % 16 = 0 →
    Fits s (srcOf s) (lenOf s) → Fits s (dstOf s) (lenOf s) → padCount (ecbPlainOf s) ≤ lenOf s →
    ∃ t, exec .decryptEcb s = .next t ∧
      WroteAtDst s t (lenOf s - padCount (ecbPlainOf s)) ((ecbPlainOf s).take (lenOf s - padCount (ecbPlainOf s))) ∧
      t.session = sessionReversed s.session ∧ t.prng = s.prng

/-- DECRYPT.CBC (R656, R657, R661). -/
def Obligations.DecryptCbcWritesUnpaddedBytes : Prop :=
  ∀ s : State, s.session.pbox.length = 64 → s.session.keyValid = true → 32 ≤ lenOf s → lenOf s % 16 = 0 →
    Fits s (srcOf s) (lenOf s) → Fits s (dstOf s) (lenOf s - 16) → padCount (cbcPlainOf s) ≤ lenOf s - 16 →
    ∃ t, exec .decryptCbc s = .next t ∧
      WroteAtDst s t (lenOf s - 16 - padCount (cbcPlainOf s))
        ((cbcPlainOf s).take (lenOf s - 16 - padCount (cbcPlainOf s))) ∧
      t.session = sessionReversed s.session ∧ t.prng = s.prng

/-- BITS: byte `8i + k` of the output is bit `7 − k` of source byte `i` (R410, R401). -/
def Obligations.BitsWritesOneBytePerBit : Prop :=
  ∀ s : State, Fits s (srcOf s) (lenOf s) → Fits s (dstOf s) (8 * lenOf s) →
    ∃ t, exec .bits s = .next t ∧ Computed s t (8 * lenOf s) ((List.range (8 * lenOf s)).map fun j =>
      if (srcByte s (j / 8)).getLsbD (7 - j % 8) then 0x01#8 else 0x00#8)

/-- TO2BIT: byte `4i + k` of the output is bits `7−2k : 6−2k` of source byte `i` (R411, R403). -/
def Obligations.To2bitWritesOneBytePerGroup : Prop :=
  ∀ s : State, Fits s (srcOf s) 16 → Fits s (dstOf s) 64 →
    ∃ t, exec .to2bit s = .next t ∧ Computed s t 64 ((List.range 64).map fun j =>
      (srcByte s (j / 4) >>> (6 - 2 * (j % 4))) &&& 0x03#8)

/-- FROM2BIT: each output byte joins four source bytes taken mod 4 (R412, R404). -/
def Obligations.From2bitJoinsFourGroups : Prop :=
  ∀ s : State, Fits s (srcOf s) 64 → Fits s (dstOf s) 16 →
    ∃ t, exec .from2bit s = .next t ∧ Computed s t 16 ((List.range 16).map fun i =>
      BitVec.ofNat 8 (64 * ((srcByte s (4 * i)).toNat % 4) + 16 * ((srcByte s (4 * i + 1)).toNat % 4) +
        4 * ((srcByte s (4 * i + 2)).toNat % 4) + (srcByte s (4 * i + 3)).toNat % 4))

/-- ROTL1: each of 256 bytes rotated left by one (R413, R405). -/
def Obligations.Rotl1RotatesEachByte : Prop :=
  ∀ s : State, Fits s (srcOf s) 256 → Fits s (dstOf s) 256 →
    ∃ t, exec .rotl1 s = .next t ∧ Computed s t 256 ((List.range 256).map fun i => (srcByte s i).rotateLeft 1)

/-- XOREXC: every byte XORed with VAL but the one at IDX (R414, R406). -/
def Obligations.XorexcXorsAllButOneByte : Prop :=
  ∀ (s : State) (val : Byte) (idx : Nat), Fits s (srcOf s) 16 → Fits s (dstOf s) 16 →
    ∃ t, exec (.xorexc val idx) s = .next t ∧ Computed s t 16 ((List.range 16).map fun j =>
      if j = idx then srcByte s j else srcByte s j ^^^ val)

/-- BOXGENS and BOXGENP write the generated box, one entry per byte (R460, R461). -/
def Obligations.BoxCommandsWriteTheBox : Prop :=
  ∀ s : State,
    (Fits s (srcOf s) 1216 → Fits s (dstOf s) 256 → ∃ t, exec .boxgens s = .next t ∧
      Computed s t 256 (genSBox (srcInput s 1216))) ∧
    (Fits s (srcOf s) 320 → Fits s (dstOf s) 64 → ∃ t, exec .boxgenp s = .next t ∧
      Computed s t 64 ((genPBox (srcInput s 320)).map fun p => BitVec.ofNat 8 p.toNat))

/-- MIX, FOLD, KISS and KISS2 write their function of the source bytes (R520 to R523, R502). -/
def Obligations.KeyScheduleCommandsWriteTheirFunction : Prop :=
  ∀ s : State,
    (Fits s (srcOf s) 2048 → Fits s (dstOf s) 2048 → ∃ t, exec .mix s = .next t ∧
      Computed s t 2048 (mixPass s.params.pboxForm (srcInput s 2048))) ∧
    (Fits s (srcOf s) 2048 → Fits s (dstOf s) 16 → ∃ t, exec .fold s = .next t ∧
      Computed s t 16 ((List.range 16).map fun j =>
        (List.range 128).foldl (fun acc m => acc ^^^ srcByte s (16 * m + j)) 0)) ∧
    (Fits s (srcOf s) 16 → Fits s (dstOf s) 2048 → ∃ t, exec .kiss s = .next t ∧
      Computed s t 2048 (stageA s.params.pboxForm (srcInput s 16))) ∧
    (Fits s (srcOf s) 16 → Fits s (dstOf s) 2048 → ∃ t, exec .kiss2 s = .next t ∧
      Computed s t 2048 (stageB s.params.pboxForm (srcInput s 16)))

/-! ### Bus -/

/-- A misaligned or unmapped transaction is answered `err = 1` and records nothing (R201, R205, R809). -/
def Obligations.BusErrorsChangeNothing : Prop :=
  ∀ (s : State) (rest : List Event) (t : Txn), s.inbox = .bus t :: rest →
    (t.addr.toNat % 4 ≠ 0 ∨ Unmapped s t.addr.toNat) →
    step s = .next (answered s rest (if t.write then .write true else .read 0 true))

/-- While BUSY = 1, writes of CMD (R801) and of SRC, LEN, DST, KEY_IN0..3, PRNG_SEED and DMEM (R906, R809) are rejected. -/
def Obligations.BusyCoreRejectsOperandWrites : Prop :=
  ∀ (s : State) (rest : List Event) (a v : Word), s.regs.busy = true → s.inbox = writeTo a v :: rest →
    (a.toNat ∈ [0x00C, 0x010, 0x014, 0x018, 0x020, 0x030, 0x034, 0x038, 0x03C] ∨
      (0x10000 ≤ a.toNat ∧ a.toNat < 0x10000 + s.params.dmemBytes)) →
    step s = .next (answered s rest (.write true))

/-- A read changes nothing in the core; it only records its answer, with `err = 0` exactly where the offset is aligned and
mapped (R201, R205, R212). So a read that R907 leaves unspecified is answered with `err = 0` as well; its word is a free
value (log 8). -/
def Obligations.ReadsHaveNoSideEffect : Prop :=
  ∀ (s : State) (rest : List Event) (a v : Word), s.inbox = readFrom a v :: rest →
    ∃ r d, step s = .next { answered s rest (.read r d) with
        freeDraws := if s.regs.busy = true ∧ a.toNat % 4 = 0 ∧ HiddenWhileBusy s a.toNat then s.freeDraws + 1
                     else s.freeDraws } ∧
      (a.toNat % 4 = 0 → ¬Unmapped s a.toNat → d = false) ∧
      (a.toNat % 4 ≠ 0 ∨ Unmapped s a.toNat → r = 0 ∧ d = true)

/-- Writes to read-only registers and windows, and STATUS writes without the DONE bit, are ignored without error (R206). -/
def Obligations.ReadOnlyTargetsIgnoreWrites : Prop :=
  ∀ (s : State) (rest : List Event) (a v : Word), s.inbox = writeTo a v :: rest → a.toNat % 4 = 0 →
    (a.toNat ∈ [0x000, 0x01C, 0x040, 0x044, 0x048, 0x04C] ∨ (0x1000 ≤ a.toNat ∧ a.toNat < 0x1A80) ∨
      (a.toNat = 0x008 ∧ v.getLsbD 1 = false)) →
    step s = .next (answered s rest (.write false))

/-- What reads of the registers answer, idle or busy (R110 to R119, R907). -/
def Obligations.RegisterReadsShowTheRegisters : Prop :=
  ∀ (s : State) (rest : List Event) (v : Word),
    (∀ p ∈ [ (0x000#32, 0x414E4731#32), (0x00C, s.regs.cmd), (0x010, s.regs.src), (0x014, s.regs.len),
             (0x018, s.regs.dst), (0x01C, s.regs.outlen), (0x020, 0), (0x030, s.regs.keyIn[0]),
             (0x034, s.regs.keyIn[1]), (0x038, s.regs.keyIn[2]), (0x03C, s.regs.keyIn[3]) ],
      s.inbox = readFrom p.1 v :: rest → step s = .next (answered s rest (.read p.2 false))) ∧
    (s.inbox = readFrom 0x004 v :: rest →
      step s = .next (answered s rest (.read (if s.regs.ie then 1 else 0) false))) ∧
    (s.inbox = readFrom 0x008 v :: rest →
      ∃ r, ShowsStatus s r ∧ step s = .next (answered s rest (.read r false)))

/-- A read of any DMEM word of an idle core answers its four bytes in lanes with `err = 0`, whoever wrote them; a word written
to DMEM of an idle core lies there in little-endian lanes, the next read of it returns it, and nothing else changes (R202,
R204, R208). Legal parameters are part of `Inv`. -/
def Obligations.DmemWordsAreStoredInLanes : Prop :=
  ∀ (s : State) (rest : List Event) (d : Nat) (v v' : Word), s.params.legal → s.regs.busy = false → d % 4 = 0 →
    d < s.params.dmemBytes →
    (s.inbox = readFrom (BitVec.ofNat 32 (0x10000 + d)) v :: rest →
      ∃ r, ShowsLanes r s.readByte d ∧ step s = .next (answered s rest (.read r false))) ∧
    (s.inbox = writeTo (BitVec.ofNat 32 (0x10000 + d)) v :: readFrom (BitVec.ofNat 32 (0x10000 + d)) v' :: rest →
      ∃ t, step s = .next t ∧ t.params = s.params ∧ t.regs = s.regs ∧ t.session = s.session ∧ t.prng = s.prng ∧
        t.pending = s.pending ∧ t.replies = .write false :: s.replies ∧
        (∀ k, k < 4 → t.readByte (d + k) = v.extractLsb' (8 * k) 8) ∧
        (∀ a, a < d ∨ d + 4 ≤ a → t.readByte a = s.readByte a) ∧
        ∃ u, step t = .next u ∧ u.replies = .read v false :: .write false :: s.replies)

/-- The windows and KEY0..3 of an idle core show their state in lanes while it is valid, and read 0 while it is not (R120, R204, R207). -/
def Obligations.WindowsShowOnlyValidState : Prop :=
  ∀ (s : State) (rest : List Event) (a v : Word), s.regs.busy = false → s.inbox = readFrom a v :: rest →
    a.toNat % 4 = 0 → (0x040 ≤ a.toNat ∧ a.toNat < 0x050) ∨ (0x1000 ≤ a.toNat ∧ a.toNat < 0x1A80) →
    ∃ r, step s = .next (answered s rest (.read r false)) ∧
      (0x040 ≤ a.toNat → a.toNat < 0x050 →
        if s.session.keyValid then ShowsLanes r (fun k => s.session.key.getD k 0) (a.toNat - 0x040) else r = 0) ∧
      (0x1000 ≤ a.toNat → a.toNat < 0x1800 →
        if s.session.keyValid then ShowsLanes r (fun k => s.session.ks.getD k 0) (a.toNat - 0x1000) else r = 0) ∧
      (0x1800 ≤ a.toNat → a.toNat < 0x1900 →
        if s.session.keyValid then ShowsLanes r (fun k => s.session.sbox.getD k 0) (a.toNat - 0x1800) else r = 0) ∧
      (0x1900 ≤ a.toNat → a.toNat < 0x1A00 →
        if s.session.revValid then ShowsLanes r (fun k => s.session.rsbox.getD k 0) (a.toNat - 0x1900) else r = 0) ∧
      (0x1A00 ≤ a.toNat → a.toNat < 0x1A40 →
        if s.session.keyValid then
          ShowsLanes r (fun k => BitVec.ofNat 8 (s.session.pbox.getD k 0).toNat) (a.toNat - 0x1A00) else r = 0) ∧
      (0x1A40 ≤ a.toNat →
        if s.session.revValid then
          ShowsLanes r (fun k => BitVec.ofNat 8 (s.session.rpbox.getD k 0).toNat) (a.toNat - 0x1A40) else r = 0)

/-- Writes of the writable registers: operands and the seed while idle, CTRL.IE and the W1C DONE at any time (R111 to R119, R605, R906). -/
def Obligations.RegisterWritesTakeEffect : Prop :=
  ∀ (s : State) (rest : List Event) (v : Word),
    (s.regs.busy = false →
      (s.inbox = writeTo 0x010 v :: rest →
        step s = .next { answered s rest (.write false) with regs := { s.regs with src := v } }) ∧
      (s.inbox = writeTo 0x014 v :: rest →
        step s = .next { answered s rest (.write false) with regs := { s.regs with len := v } }) ∧
      (s.inbox = writeTo 0x018 v :: rest →
        step s = .next { answered s rest (.write false) with regs := { s.regs with dst := v } }) ∧
      (∀ w : Fin 4, s.inbox = writeTo (BitVec.ofNat 32 (0x030 + 4 * w.val)) v :: rest →
        step s = .next { answered s rest (.write false) with
          regs := { s.regs with keyIn := s.regs.keyIn.set w v } }) ∧
      (s.inbox = writeTo 0x020 v :: rest →
        step s = .next { answered s rest (.write false) with prng := Config.prngSeed v })) ∧
    (s.inbox = writeTo 0x004 v :: rest → v.getLsbD 1 = false →
      step s = .next { answered s rest (.write false) with regs := { s.regs with ie := v.getLsbD 0 } }) ∧
    (s.inbox = writeTo 0x008 v :: rest → v.getLsbD 1 = true →
      step s = .next { answered s rest (.write false) with regs := { s.regs with done := false } })

/-! ### Reset and interrupt -/

/-- A soft reset of an idle core: registers and session reset, DMEM and S.PRNG kept, IE of the write ignored (R902). That
RSBOX and RPBOX (log 11) and the snapshot (log 12), unspecified here (R135, R103), keep their values is the model's choice. -/
def Obligations.SoftResetForgetsTheSession : Prop :=
  ∀ (s : State) (rest : List Event) (v : Word), s.regs.busy = false → v.getLsbD 1 = true →
    s.inbox = writeTo 0x004 v :: rest →
    step s = .next { answered s rest (.write false) with regs := resetRegs, session := forgotten s.session }

/-- A soft reset of a busy core: as for an idle core, but DMEM may differ in the aborted command's destination range only,
and S.PRNG only if the command draws (R902, R903). The values there are free (logs 9, 10). That RSBOX and RPBOX keep their
values is the model's choice (log 11). -/
def Obligations.SoftResetAbortsOnlyTheCommand : Prop :=
  ∀ (s : State) (rest : List Event) (v : Word), s.regs.busy = true → v.getLsbD 1 = true →
    s.inbox = writeTo 0x004 v :: rest →
    ∃ t, step s = .next t ∧ t.regs = resetRegs ∧ t.session = forgotten s.session ∧ t.inbox = rest ∧
      t.replies = .write false :: s.replies ∧
      (∀ e, decode s.pending.word = .error e → (∀ a, t.readByte a = s.readByte a) ∧ t.prng = s.prng) ∧
      (∀ i, decode s.pending.word = .ok i →
        (∀ c, precheck i s = some c → ∀ a, t.readByte a = s.readByte a) ∧
        (∀ n, precheck i s = none → dstBytes i (lenOf s) = some n →
          ∀ a, a < dstOf s ∨ dstOf s + n ≤ a → t.readByte a = s.readByte a) ∧
        (dstBytes i (lenOf s) = none → ∀ a, t.readByte a = s.readByte a) ∧
        (i ∉ drawingCommands → t.prng = s.prng))

/-- Hardware reset, as the state after power-up of an instance with any parameters and as a pulse on `rst` (R900): the values
the spec gives. RSBOX and RPBOX are left out (log 11); the schedule and the answers survive by the model's choice (log 14). -/
def Obligations.HardResetSetsEveryGivenValue : Prop :=
  (∀ p : Params, (State.resetOf p).params = p ∧ (State.resetOf p).regs = resetRegs ∧ (State.resetOf p).irq = false ∧
    (State.resetOf p).session = forgotten (State.resetOf p).session ∧
    (State.resetOf p).prng = Config.prngSeed Config.prngResetSeed ∧ (State.resetOf p).dmem = []) ∧
  ∀ (s : State) (rest : List Event), s.inbox = .rst :: rest →
    ∃ t, step s = .next t ∧ t.params = s.params ∧ t.regs = resetRegs ∧ t.session = forgotten t.session ∧
      t.prng = Config.prngSeed Config.prngResetSeed ∧ t.dmem = [] ∧ t.inbox = rest ∧ t.replies = s.replies

/-- `irq` (R808): a completion raises it exactly if IE is set; setting IE raises it at once exactly if DONE is set; an
acknowledge, the acceptance of a command, clearing IE and the resets drop it. -/
def Obligations.IrqFollowsDoneAndIe : Prop :=
  (∀ s t : State, complete s = .next t → t.irq = s.regs.ie) ∧
  ∀ (s t : State) (rest : List Event) (v : Word), step s = .next t →
    (s.inbox = writeTo 0x004 v :: rest → v.getLsbD 0 = true → v.getLsbD 1 = false → t.irq = s.regs.done) ∧
    ((s.inbox = writeTo 0x008 v :: rest ∧ v.getLsbD 1 = true) ∨
      (s.inbox = writeTo 0x00C v :: rest ∧ s.regs.busy = false) ∨
      (s.inbox = writeTo 0x004 v :: rest ∧ (v.getLsbD 0 = false ∨ v.getLsbD 1 = true)) ∨ s.inbox = .rst :: rest →
    t.irq = false)

/-! ### Invariants and whole-machine rules -/

/-- The invariant holds at reset of an instance with any legal parameters, the default one (`State.reset`) among them. -/
def Obligations.ResetMeetsTheInvariant : Prop := (∀ p : Params, p.legal → Inv (State.resetOf p)) ∧ Inv State.reset

/-- Every step keeps the invariant: legal parameters, the memory's canonical form, the shapes of the session state, that what is derived is
the derivation of the key, that the reverse boxes are the inverses, and that a busy core's snapshot is its registers. -/
def Obligations.EveryStepKeepsTheInvariant : Prop := ∀ s t : State, Inv s → step s = .next t → Inv t

/-- KEY_VALID is set only by the successful completion of a key command and cleared only by reset and soft reset (R130, R138). -/
def Obligations.KeyValidChangesOnlyByKeyCommandsAndResets : Prop :=
  ∀ s t : State, step s = .next t →
    (s.session.keyValid = true → t.session.keyValid = false →
      (∃ rest, s.inbox = .rst :: rest) ∨ ∃ rest v, s.inbox = writeTo 0x004 v :: rest ∧ v.getLsbD 1 = true) ∧
    (s.session.keyValid = false → t.session.keyValid = true →
      (∃ rest, CoreMovesNext s rest) ∧ s.regs.busy = true ∧ t.regs.busy = false ∧ t.regs.done = true ∧
        t.regs.err = .ok ∧ ∃ i ∈ keyCommands, decode s.pending.word = .ok i)

/-- No register write but a soft reset, and nothing else but completion and reset, ends a command in progress (R818). -/
def Obligations.NothingCancelsACommand : Prop :=
  ∀ s t : State, step s = .next t → s.regs.busy = true → t.regs.busy = false →
    ((∃ rest, CoreMovesNext s rest) ∧ t.regs.done = true) ∨ (∃ rest, s.inbox = .rst :: rest) ∨
      ∃ rest v, s.inbox = writeTo 0x004 v :: rest ∧ v.getLsbD 1 = true

/-! ### The algorithms -/

/-- The laws of the bit operations (R407). -/
def Obligations.BitOperationLaws : Prop :=
  (∀ b : Bytes, twoBitToBytes (bytesTo2Bit b) = b) ∧
  (∀ g : List TwoBit, g.length = 64 → bytesTo2Bit (twoBitToBytes g) = g) ∧
  (∀ b : Bytes, Nat.iterate rotL1 8 b = b) ∧
  (∀ (b : Bytes) (k : Nat), xorExcept b 0 k = b) ∧
  (∀ (b : Bytes) (v : Byte) (k : Nat), xorExcept (xorExcept b v k) v k = b)

/-- TeaParty permutes its sequence when the stream has one bit per element and round; so the generated boxes are
permutations (R450, R454). -/
def Obligations.TeaPartyOnlyPermutes : Prop :=
  (∀ (n rounds : Nat) (t : List Bool), t.length = n * rounds → (teaParty rounds (List.range n) t).Perm (List.range n)) ∧
  (∀ seed : Bytes, seed.length = 1216 → isPermutation 8 (genSBox seed)) ∧
  (∀ seed : Bytes, seed.length = 320 → isPermutation 6 (genPBox seed))

/-- Inverse boxes invert, under either PBOX_FORM, and GATHER with P is SCATTER with its inverse (R456, R459). -/
def Obligations.InverseBoxesInvert : Prop :=
  (∀ (w : Nat) (x : List (BitVec w)), isPermutation w x → ∀ i : BitVec w,
    (inverseBox x).getD (x.getD i.toNat 0).toNat 0 = i ∧ x.getD ((inverseBox x).getD i.toNat 0).toNat 0 = i) ∧
  (∀ (f : PBoxForm) (p : PBox) (b : Bytes), isPermutation 6 p → b.length = 16 →
    pApply f (pApply f b p) (inverseBox p) = b ∧ pApply .gather b p = pApply .scatter b (inverseBox p)) ∧
  (∀ (x : SBox) (b : Bytes), isPermutation 8 x → sApply (sApply b x) (inverseBox x) = b)

/-- Decryption undoes encryption for every block and every engine whose boxes are permutations (R553). -/
def Obligations.DecBlockUndoesEncBlock : Prop :=
  ∀ (f : PBoxForm) (e : Engine) (b : Bytes), isPermutation 8 e.sb → isPermutation 6 e.pb → b.length = 16 →
    decBlock f e (inverseBox e.sb) (inverseBox e.pb) (encBlock f e b) = b

/-- A TeaParty round of equal bits changes nothing, so the zero key gives a zero schedule, identity boxes and the identity
cipher (R455, R510, R557). -/
def Obligations.ZeroKeyGivesTheIdentityCipher : Prop :=
  (∀ (n : Nat) (b : Bool), teaRound (List.range n) (List.replicate n b) = List.range n) ∧
  ∀ f : PBoxForm,
    stageA f (List.replicate 16 0) = List.replicate 2048 0 ∧
    derive f (List.replicate 16 0) = { ks := List.replicate 2048 0, sb := identitySBox, pb := identityPBox } ∧
    ∀ b : Bytes, b.length = 16 →
      encBlock f (engineOf (List.replicate 2048 0)) b = b ∧
      decBlock f (engineOf (List.replicate 2048 0)) (inverseBox identitySBox) (inverseBox identityPBox) b = b

/-- A buffer of 8 copies of a 256-byte string mixes to 8 copies of one and folds to zero (R511). -/
def Obligations.PeriodicBuffersStayPeriodic : Prop :=
  ∀ (f : PBoxForm) (c : Bytes), c.length = 256 →
    (∃ d : Bytes, d.length = 256 ∧ mixPass f (List.replicate 8 c).flatten = (List.replicate 8 d).flatten) ∧
    foldBlocks (List.replicate 8 c).flatten = List.replicate 16 0

/-- Decrypting what was encrypted gives the bytes back, in both modes, for every length (R658). -/
def Obligations.ModesRoundTrip : Prop :=
  ∀ (f : PBoxForm) (e : Engine) (d iv : Bytes), isPermutation 8 e.sb → isPermutation 6 e.pb → iv.length = 16 →
    ecbDecrypt (decBlock f e (inverseBox e.sb) (inverseBox e.pb)) (ecbEncrypt (encBlock f e) d) = some d ∧
    cbcDecrypt (decBlock f e (inverseBox e.sb) (inverseBox e.pb)) (cbcEncrypt (encBlock f e) d iv) = some d
end

