-- ==== Sys2Proof/Laws/State.lean ====
section
/-! SUPPORT. What each state update does to each field of State: one lemma per field and update, so that no proof unfolds
a record update. -/

namespace Sys2Proof.Machine

/-! ### memWrite -/

@[simp] theorem memWrite_params (s : State) (a : Nat) (v : Bytes) : (s.memWrite a v).params = s.params := rfl
@[simp] theorem memWrite_regs (s : State) (a : Nat) (v : Bytes) : (s.memWrite a v).regs = s.regs := rfl
@[simp] theorem memWrite_session (s : State) (a : Nat) (v : Bytes) : (s.memWrite a v).session = s.session := rfl
@[simp] theorem memWrite_prng (s : State) (a : Nat) (v : Bytes) : (s.memWrite a v).prng = s.prng := rfl
@[simp] theorem memWrite_pending (s : State) (a : Nat) (v : Bytes) : (s.memWrite a v).pending = s.pending := rfl
@[simp] theorem memWrite_dmem (s : State) (a : Nat) (v : Bytes) : (s.memWrite a v).dmem = Memory.store s.dmem a v := rfl
@[simp] theorem memWrite_dmemEpoch (s : State) (a : Nat) (v : Bytes) : (s.memWrite a v).dmemEpoch = s.dmemEpoch := rfl
@[simp] theorem memWrite_freeDraws (s : State) (a : Nat) (v : Bytes) : (s.memWrite a v).freeDraws = s.freeDraws := rfl
@[simp] theorem memWrite_inbox (s : State) (a : Nat) (v : Bytes) : (s.memWrite a v).inbox = s.inbox := rfl
@[simp] theorem memWrite_replies (s : State) (a : Nat) (v : Bytes) : (s.memWrite a v).replies = s.replies := rfl

/-! ### completeOk -/

@[simp] theorem completeOk_params (n : Nat) (s : State) : (completeOk n s).params = s.params := rfl
@[simp] theorem completeOk_regs (n : Nat) (s : State) : (completeOk n s).regs = { s.regs with outlen := BitVec.ofNat 32 n, err := .ok, busy := false, done := true } := rfl
@[simp] theorem completeOk_session (n : Nat) (s : State) : (completeOk n s).session = s.session := rfl
@[simp] theorem completeOk_prng (n : Nat) (s : State) : (completeOk n s).prng = s.prng := rfl
@[simp] theorem completeOk_pending (n : Nat) (s : State) : (completeOk n s).pending = s.pending := rfl
@[simp] theorem completeOk_dmem (n : Nat) (s : State) : (completeOk n s).dmem = s.dmem := rfl
@[simp] theorem completeOk_dmemEpoch (n : Nat) (s : State) : (completeOk n s).dmemEpoch = s.dmemEpoch := rfl
@[simp] theorem completeOk_freeDraws (n : Nat) (s : State) : (completeOk n s).freeDraws = s.freeDraws := rfl
@[simp] theorem completeOk_inbox (n : Nat) (s : State) : (completeOk n s).inbox = s.inbox := rfl
@[simp] theorem completeOk_replies (n : Nat) (s : State) : (completeOk n s).replies = s.replies := rfl

/-! ### raiseError -/

@[simp] theorem raiseError_params (c : StatusCode) (s : State) : (raiseError c s).params = s.params := rfl
@[simp] theorem raiseError_regs (c : StatusCode) (s : State) : (raiseError c s).regs = { s.regs with outlen := 0, err := c, busy := false, done := true } := rfl
@[simp] theorem raiseError_session (c : StatusCode) (s : State) : (raiseError c s).session = s.session := rfl
@[simp] theorem raiseError_prng (c : StatusCode) (s : State) : (raiseError c s).prng = s.prng := rfl
@[simp] theorem raiseError_pending (c : StatusCode) (s : State) : (raiseError c s).pending = s.pending := rfl
@[simp] theorem raiseError_dmem (c : StatusCode) (s : State) : (raiseError c s).dmem = s.dmem := rfl
@[simp] theorem raiseError_dmemEpoch (c : StatusCode) (s : State) : (raiseError c s).dmemEpoch = s.dmemEpoch := rfl
@[simp] theorem raiseError_freeDraws (c : StatusCode) (s : State) : (raiseError c s).freeDraws = s.freeDraws := rfl
@[simp] theorem raiseError_inbox (c : StatusCode) (s : State) : (raiseError c s).inbox = s.inbox := rfl
@[simp] theorem raiseError_replies (c : StatusCode) (s : State) : (raiseError c s).replies = s.replies := rfl

/-! ### accept -/

@[simp] theorem accept_params (w : Word) (s : State) : (accept w s).params = s.params := rfl
@[simp] theorem accept_regs (w : Word) (s : State) : (accept w s).regs = { s.regs with cmd := w, done := false, err := .ok, busy := true } := rfl
@[simp] theorem accept_session (w : Word) (s : State) : (accept w s).session = s.session := rfl
@[simp] theorem accept_prng (w : Word) (s : State) : (accept w s).prng = s.prng := rfl
@[simp] theorem accept_pending (w : Word) (s : State) : (accept w s).pending = { word := w, src := s.regs.src, len := s.regs.len, dst := s.regs.dst, keyIn := s.regs.keyIn } := rfl
@[simp] theorem accept_dmem (w : Word) (s : State) : (accept w s).dmem = s.dmem := rfl
@[simp] theorem accept_dmemEpoch (w : Word) (s : State) : (accept w s).dmemEpoch = s.dmemEpoch := rfl
@[simp] theorem accept_freeDraws (w : Word) (s : State) : (accept w s).freeDraws = s.freeDraws := rfl
@[simp] theorem accept_inbox (w : Word) (s : State) : (accept w s).inbox = s.inbox := rfl
@[simp] theorem accept_replies (w : Word) (s : State) : (accept w s).replies = s.replies := rfl

/-! ### answer -/

@[simp] theorem answer_params (r : Reply) (s : State) : (answer r s).params = s.params := rfl
@[simp] theorem answer_regs (r : Reply) (s : State) : (answer r s).regs = s.regs := rfl
@[simp] theorem answer_session (r : Reply) (s : State) : (answer r s).session = s.session := rfl
@[simp] theorem answer_prng (r : Reply) (s : State) : (answer r s).prng = s.prng := rfl
@[simp] theorem answer_pending (r : Reply) (s : State) : (answer r s).pending = s.pending := rfl
@[simp] theorem answer_dmem (r : Reply) (s : State) : (answer r s).dmem = s.dmem := rfl
@[simp] theorem answer_dmemEpoch (r : Reply) (s : State) : (answer r s).dmemEpoch = s.dmemEpoch := rfl
@[simp] theorem answer_freeDraws (r : Reply) (s : State) : (answer r s).freeDraws = s.freeDraws := rfl
@[simp] theorem answer_inbox (r : Reply) (s : State) : (answer r s).inbox = s.inbox := rfl
@[simp] theorem answer_replies (r : Reply) (s : State) : (answer r s).replies = r :: s.replies := rfl

/-! ### deriveReverse -/

@[simp] theorem deriveReverse_params (s : State) : (deriveReverse s).params = s.params := rfl
@[simp] theorem deriveReverse_regs (s : State) : (deriveReverse s).regs = s.regs := rfl
@[simp] theorem deriveReverse_session (s : State) : (deriveReverse s).session = { s.session with rsbox := inverseBox s.session.sbox, rpbox := inverseBox s.session.pbox, revValid := true } := rfl
@[simp] theorem deriveReverse_prng (s : State) : (deriveReverse s).prng = s.prng := rfl
@[simp] theorem deriveReverse_pending (s : State) : (deriveReverse s).pending = s.pending := rfl
@[simp] theorem deriveReverse_dmem (s : State) : (deriveReverse s).dmem = s.dmem := rfl
@[simp] theorem deriveReverse_dmemEpoch (s : State) : (deriveReverse s).dmemEpoch = s.dmemEpoch := rfl
@[simp] theorem deriveReverse_freeDraws (s : State) : (deriveReverse s).freeDraws = s.freeDraws := rfl
@[simp] theorem deriveReverse_inbox (s : State) : (deriveReverse s).inbox = s.inbox := rfl
@[simp] theorem deriveReverse_replies (s : State) : (deriveReverse s).replies = s.replies := rfl

/-! ### afterGloria -/

@[simp] theorem afterGloria_params (s : State) : (afterGloria s).params = s.params := rfl
@[simp] theorem afterGloria_regs (s : State) : (afterGloria s).regs = s.regs := rfl
@[simp] theorem afterGloria_session (s : State) : (afterGloria s).session = s.session := rfl
@[simp] theorem afterGloria_prng (s : State) : (afterGloria s).prng = (gloria s.params.pboxForm Config.prngNext s.prng).2 := rfl
@[simp] theorem afterGloria_pending (s : State) : (afterGloria s).pending = s.pending := rfl
@[simp] theorem afterGloria_dmem (s : State) : (afterGloria s).dmem = s.dmem := rfl
@[simp] theorem afterGloria_dmemEpoch (s : State) : (afterGloria s).dmemEpoch = s.dmemEpoch := rfl
@[simp] theorem afterGloria_freeDraws (s : State) : (afterGloria s).freeDraws = s.freeDraws := rfl
@[simp] theorem afterGloria_inbox (s : State) : (afterGloria s).inbox = s.inbox := rfl
@[simp] theorem afterGloria_replies (s : State) : (afterGloria s).replies = s.replies := rfl

/-! ### commitKey -/

@[simp] theorem commitKey_params (k : Bytes) (s : State) : (commitKey k s).params = s.params := rfl
@[simp] theorem commitKey_regs (k : Bytes) (s : State) : (commitKey k s).regs = s.regs := rfl
@[simp] theorem commitKey_session (k : Bytes) (s : State) : (commitKey k s).session = commitSession (derive s.params.pboxForm k) k s.session := rfl
@[simp] theorem commitKey_prng (k : Bytes) (s : State) : (commitKey k s).prng = s.prng := rfl
@[simp] theorem commitKey_pending (k : Bytes) (s : State) : (commitKey k s).pending = s.pending := rfl
@[simp] theorem commitKey_dmem (k : Bytes) (s : State) : (commitKey k s).dmem = s.dmem := rfl
@[simp] theorem commitKey_dmemEpoch (k : Bytes) (s : State) : (commitKey k s).dmemEpoch = s.dmemEpoch := rfl
@[simp] theorem commitKey_freeDraws (k : Bytes) (s : State) : (commitKey k s).freeDraws = s.freeDraws := rfl
@[simp] theorem commitKey_inbox (k : Bytes) (s : State) : (commitKey k s).inbox = s.inbox := rfl
@[simp] theorem commitKey_replies (k : Bytes) (s : State) : (commitKey k s).replies = s.replies := rfl

/-! ### reseed -/

@[simp] theorem reseed_params (v : Word) (s : State) : (reseed v s).params = s.params := rfl
@[simp] theorem reseed_regs (v : Word) (s : State) : (reseed v s).regs = s.regs := rfl
@[simp] theorem reseed_session (v : Word) (s : State) : (reseed v s).session = s.session := rfl
@[simp] theorem reseed_prng (v : Word) (s : State) : (reseed v s).prng = Config.prngSeed v := rfl
@[simp] theorem reseed_pending (v : Word) (s : State) : (reseed v s).pending = s.pending := rfl
@[simp] theorem reseed_dmem (v : Word) (s : State) : (reseed v s).dmem = s.dmem := rfl
@[simp] theorem reseed_dmemEpoch (v : Word) (s : State) : (reseed v s).dmemEpoch = s.dmemEpoch := rfl
@[simp] theorem reseed_freeDraws (v : Word) (s : State) : (reseed v s).freeDraws = s.freeDraws := rfl
@[simp] theorem reseed_inbox (v : Word) (s : State) : (reseed v s).inbox = s.inbox := rfl
@[simp] theorem reseed_replies (v : Word) (s : State) : (reseed v s).replies = s.replies := rfl

/-! ### clearForSoftReset -/

@[simp] theorem clearForSoftReset_params (s : State) : (clearForSoftReset s).params = s.params := rfl
@[simp] theorem clearForSoftReset_regs (s : State) : (clearForSoftReset s).regs = Registers.reset := rfl
@[simp] theorem clearForSoftReset_session (s : State) : (clearForSoftReset s).session = forgetSession s.session := rfl
@[simp] theorem clearForSoftReset_prng (s : State) : (clearForSoftReset s).prng = s.prng := rfl
@[simp] theorem clearForSoftReset_pending (s : State) : (clearForSoftReset s).pending = s.pending := rfl
@[simp] theorem clearForSoftReset_dmem (s : State) : (clearForSoftReset s).dmem = s.dmem := rfl
@[simp] theorem clearForSoftReset_dmemEpoch (s : State) : (clearForSoftReset s).dmemEpoch = s.dmemEpoch := rfl
@[simp] theorem clearForSoftReset_freeDraws (s : State) : (clearForSoftReset s).freeDraws = s.freeDraws := rfl
@[simp] theorem clearForSoftReset_inbox (s : State) : (clearForSoftReset s).inbox = s.inbox := rfl
@[simp] theorem clearForSoftReset_replies (s : State) : (clearForSoftReset s).replies = s.replies := rfl

/-! ### hardReset -/

@[simp] theorem hardReset_params (s : State) : (hardReset s).params = s.params := rfl
@[simp] theorem hardReset_regs (s : State) : (hardReset s).regs = Registers.reset := rfl
@[simp] theorem hardReset_session (s : State) : (hardReset s).session = Session.reset := rfl
@[simp] theorem hardReset_prng (s : State) : (hardReset s).prng = Config.prngSeed Config.prngResetSeed := rfl
@[simp] theorem hardReset_pending (s : State) : (hardReset s).pending = Pending.reset := rfl
@[simp] theorem hardReset_dmem (s : State) : (hardReset s).dmem = [] := rfl
@[simp] theorem hardReset_dmemEpoch (s : State) : (hardReset s).dmemEpoch = s.freeDraws := rfl
@[simp] theorem hardReset_freeDraws (s : State) : (hardReset s).freeDraws = s.freeDraws + 1 := rfl
@[simp] theorem hardReset_inbox (s : State) : (hardReset s).inbox = s.inbox := rfl
@[simp] theorem hardReset_replies (s : State) : (hardReset s).replies = s.replies := rfl

/-! ### abortInstr -/

@[simp] theorem abortInstr_params (i : Instr) (s : State) : (abortInstr i s).params = s.params := rfl
@[simp] theorem abortInstr_regs (i : Instr) (s : State) : (abortInstr i s).regs = s.regs := rfl
@[simp] theorem abortInstr_session (i : Instr) (s : State) : (abortInstr i s).session = s.session := rfl
@[simp] theorem abortInstr_prng (i : Instr) (s : State) : (abortInstr i s).prng = if drawsGenerator i then Config.abortedPrng s.freeDraws else s.prng := rfl
@[simp] theorem abortInstr_pending (i : Instr) (s : State) : (abortInstr i s).pending = s.pending := rfl
@[simp] theorem abortInstr_dmem (i : Instr) (s : State) : (abortInstr i s).dmem = Memory.store s.dmem s.pending.dst.toNat (abortedRun s.freeDraws s.pending.dst.toNat (abortedBytes i s)) := rfl
@[simp] theorem abortInstr_dmemEpoch (i : Instr) (s : State) : (abortInstr i s).dmemEpoch = s.dmemEpoch := rfl
@[simp] theorem abortInstr_freeDraws (i : Instr) (s : State) : (abortInstr i s).freeDraws = s.freeDraws + 1 := rfl
@[simp] theorem abortInstr_inbox (i : Instr) (s : State) : (abortInstr i s).inbox = s.inbox := rfl
@[simp] theorem abortInstr_replies (i : Instr) (s : State) : (abortInstr i s).replies = s.replies := rfl

/-! ### resetOf -/

@[simp] theorem resetOf_params (p : Params) : (State.resetOf p).params = p := rfl
@[simp] theorem resetOf_regs (p : Params) : (State.resetOf p).regs = Registers.reset := rfl
@[simp] theorem resetOf_session (p : Params) : (State.resetOf p).session = Session.reset := rfl
@[simp] theorem resetOf_dmem (p : Params) : (State.resetOf p).dmem = [] := rfl

end Sys2Proof.Machine
end

