-- ==== Sys2Proof/Laws/Memory.lean ====
section
/-! SUPPORT. The laws of data memory: what a store changes, and that it keeps the canonical form (R208 to R210). -/

namespace Sys2Proof.Machine

/-- What a run of cells holds at an offset. -/
theorem Memory.written_run (a : Nat) (v : Bytes) (x : Nat) :
    Memory.written (Memory.run a v) x = if a ≤ x ∧ x < a + v.length then v[x - a]? else none := by
  induction v generalizing a with
  | nil => simp [Memory.run, Memory.written]
  | cons b bs ih =>
    have ih' := ih (a + 1)
    simp only [Memory.written] at ih' ⊢
    rw [Memory.run, List.lookup_cons, ih']
    by_cases hx : x = a
    · subst hx; simp
    · have hb : (x == a) = false := by simpa using hx
      rw [hb]
      by_cases h : a + 1 ≤ x ∧ x < a + 1 + bs.length
      · rw [if_pos h, if_pos (by simp; omega), show x - a = (x - (a + 1)) + 1 by omega]
        simp
      · rw [if_neg h, if_neg (by simp; omega)]

/-- Filtering cells by a property of their offset. -/
theorem Memory.written_filter (m : Memory) (p : Nat → Bool) (x : Nat) :
    Memory.written (m.filter fun c => p c.1) x = if p x then Memory.written m x else none := by
  induction m with
  | nil => simp [Memory.written]
  | cons c m ih =>
    obtain ⟨k, b⟩ := c
    simp only [Memory.written] at ih ⊢
    by_cases hk : p k = true
    · rw [List.filter_cons_of_pos (by simpa using hk), List.lookup_cons, ih, List.lookup_cons]
      by_cases hx : x = k
      · subst hx; simp [hk]
      · have hb : (x == k) = false := by simpa using hx
        rw [hb]
    · rw [List.filter_cons_of_neg (by simpa using hk), ih, List.lookup_cons]
      by_cases hx : x = k
      · subst hx; simp [hk]
      · have hb : (x == k) = false := by simpa using hx
        rw [hb]

/-- What a memory holds after a store: the stored bytes in their range, everything else as before. -/
theorem Memory.written_store (m : Memory) (a : Nat) (v : Bytes) (x : Nat) :
    Memory.written (Memory.store m a v) x = if a ≤ x ∧ x < a + v.length then v[x - a]? else Memory.written m x := by
  have h1 := Memory.written_filter m (fun k => decide (k < a)) x
  have h2 := Memory.written_filter m (fun k => decide (a + v.length ≤ k)) x
  have h3 := Memory.written_run a v x
  simp only [Memory.written] at h1 h2 h3 ⊢
  rw [Memory.store, List.lookup_append, List.lookup_append, h1, h2, h3]
  by_cases hlt : x < a
  · simp [hlt, show ¬(a ≤ x) by omega, show ¬(a + v.length ≤ x) by omega]
  · by_cases hin : x < a + v.length
    · have hi : x - a < v.length := by omega
      simp [show a ≤ x by omega, hin, hlt, show ¬(a + v.length ≤ x) by omega, hi]
    · simp [hlt, hin, show a + v.length ≤ x by omega]

/-- Every cell of a run lies in its range. -/
theorem Memory.mem_run {a : Nat} {v : Bytes} {c : Host.Cell} (h : c ∈ Memory.run a v) :
    a ≤ c.1 ∧ c.1 < a + v.length := by
  induction v generalizing a with
  | nil => simp [Memory.run] at h
  | cons b bs ih =>
    simp only [Memory.run, List.mem_cons] at h
    rcases h with rfl | h
    · simp
    · have := ih h
      simp only [List.length_cons]
      omega

/-- The offsets of a run rise. -/
theorem Memory.run_rising (a : Nat) (v : Bytes) : (Memory.run a v).Pairwise (fun c c' => c.1 < c'.1) := by
  induction v generalizing a with
  | nil => simp [Memory.run]
  | cons b bs ih =>
    simp only [Memory.run, List.pairwise_cons]
    refine ⟨fun c hc => ?_, ih (a + 1)⟩
    have := Memory.mem_run hc
    omega

/-- A store inside DMEM keeps the canonical form; so does a store of nothing, wherever it points. -/
theorem Memory.store_wf {size : Nat} {m : Memory} {a : Nat} {v : Bytes} (h : Memory.wf size m)
    (hv : v = [] ∨ a + v.length ≤ size) : Memory.wf size (Memory.store m a v) := by
  refine ⟨?_, ?_⟩
  · rw [Memory.store, List.pairwise_append, List.pairwise_append]
    refine ⟨⟨h.1.filter _, Memory.run_rising a v, ?_⟩, h.1.filter _, ?_⟩
    · intro c hc c' hc'
      have := Memory.mem_run hc'
      simp only [List.mem_filter, decide_eq_true_eq] at hc
      omega
    · intro c hc c' hc'
      simp only [List.mem_append, List.mem_filter, decide_eq_true_eq] at hc hc'
      rcases hc with hc | hc
      · omega
      · have := Memory.mem_run hc
        omega
  · intro c hc
    simp only [Memory.store, List.mem_append, List.mem_filter] at hc
    rcases hc with (hc | hc) | hc
    · exact h.2 c hc.1
    · rcases hv with rfl | hv
      · simp [Memory.run] at hc
      · have := Memory.mem_run hc
        omega
    · exact h.2 c hc.1

/-- The memory right after reset is in canonical form. -/
theorem reset_memory_wf (size : Nat) (p : Params) : Memory.wf size (State.resetOf p).dmem :=
  ⟨List.Pairwise.nil, by simp [State.resetOf]⟩

/-- Reading the head of a memory, or past it. -/
theorem Memory.written_cons (k : Nat) (b : Byte) (m : Memory) (x : Nat) :
    Memory.written ((k, b) :: m) x = if x = k then some b else Memory.written m x := by
  simp only [Memory.written, List.lookup_cons]
  by_cases h : x = k
  · subst h; simp
  · have hb : (x == k) = false := by simpa using h
    simp [hb, h]

/-- Nothing is written below the offsets of a memory. -/
theorem Memory.written_below {m : Memory} {x : Nat} (h : ∀ c ∈ m, x < c.1) : Memory.written m x = none := by
  induction m with
  | nil => rfl
  | cons c m ih =>
    have hc : x < c.1 := h c (by simp)
    rw [← Prod.mk.eta (p := c), Memory.written_cons, if_neg (by omega)]
    exact ih fun d hd => h d (by simp [hd])

/-- Equal contents are equal lists: the canonical form says everything. -/
theorem Memory.ext_of_rising {m m' : Memory} (h : m.Pairwise fun c c' => c.1 < c'.1)
    (h' : m'.Pairwise fun c c' => c.1 < c'.1) (he : ∀ x, Memory.written m x = Memory.written m' x) : m = m' := by
  induction m generalizing m' with
  | nil =>
    cases m' with
    | nil => rfl
    | cons d m' =>
      obtain ⟨k', b'⟩ := d
      have := he k'
      simp only [Memory.written_cons, if_pos] at this
      simp [Memory.written] at this
  | cons c m ih =>
    obtain ⟨k, b⟩ := c
    cases m' with
    | nil =>
      have := he k
      simp only [Memory.written_cons, if_pos] at this
      simp [Memory.written] at this
    | cons d m' =>
      obtain ⟨k', b'⟩ := d
      rw [List.pairwise_cons] at h h'
      have low : ∀ x, x ≤ k → Memory.written m x = none := fun x hx =>
        Memory.written_below fun c hc => Nat.lt_of_le_of_lt hx (h.1 c hc)
      have low' : ∀ x, x ≤ k' → Memory.written m' x = none := fun x hx =>
        Memory.written_below fun c hc => Nat.lt_of_le_of_lt hx (h'.1 c hc)
      have hk : k = k' := by
        have h1 := he k
        have h2 := he k'
        simp only [Memory.written_cons] at h1 h2
        rcases Nat.lt_trichotomy k k' with hlt | heq | hgt
        · rw [low' k (by omega)] at h1
          simp [show ¬ k = k' by omega] at h1
        · exact heq
        · rw [low k' (by omega)] at h2
          simp [show ¬ k' = k by omega] at h2
      subst hk
      have hb := he k
      simp only [Memory.written_cons, if_pos, Option.some.injEq] at hb
      subst hb
      congr 1
      refine ih h.2 h'.2 fun x => ?_
      by_cases hx : x ≤ k
      · rw [low x hx, low' x hx]
      · have := he x
        simpa only [Memory.written_cons, if_neg (show ¬ x = k by omega)] using this

/-- Memories in canonical form with equal contents are equal. -/
theorem Memory.wf_ext {size : Nat} {m m' : Memory} (h : Memory.wf size m) (h' : Memory.wf size m')
    (he : ∀ x, Memory.written m x = Memory.written m' x) : m = m' := Memory.ext_of_rising h.1 h'.1 he

/-- One byte read after `MemWrite`. -/
theorem readByte_memWrite (s : State) (a : Nat) (v : Bytes) (x : Nat) :
    (s.memWrite a v).readByte x = if a ≤ x ∧ x < a + v.length then v.getD (x - a) 0 else s.readByte x := by
  simp only [State.readByte, memWrite_dmem, memWrite_dmemEpoch, Memory.written_store]
  by_cases h : a ≤ x ∧ x < a + v.length
  · have hi : x - a < v.length := by omega
    rw [if_pos h, if_pos h, List.getElem?_eq_getElem hi]
    simp [List.getD, List.getElem?_eq_getElem hi]
  · rw [if_neg h, if_neg h]

/-- A byte read depends on the memory and its epoch only. -/
theorem readByte_congr {s t : State} (hd : t.dmem = s.dmem) (he : t.dmemEpoch = s.dmemEpoch) (x : Nat) :
    t.readByte x = s.readByte x := by
  simp only [State.readByte, hd, he]

@[simp] theorem memRead_length (s : State) (a n : Nat) : (s.memRead a n).length = n := by simp [State.memRead]

/-- `MemRead` byte by byte. -/
theorem memRead_getD (s : State) (a n i : Nat) (h : i < n) : (s.memRead a n).getD i 0 = s.readByte (a + i) := by
  simp [State.memRead, List.getD, h]

/-- Each lane of a word read from a region is the byte it shows (R202). -/
theorem laneWord_lane (byteAt : Nat → Byte) (off k : Nat) (hk : k < 4) :
    (laneWord byteAt off).extractLsb' (8 * k) 8 = byteAt (off + k) := by
  have lanes : ∀ a b c d : Byte, ∀ j, j < 4 →
      (a.setWidth 32 ||| (b.setWidth 32 <<< 8) ||| (c.setWidth 32 <<< 16) ||| (d.setWidth 32 <<< 24)).extractLsb' (8 * j) 8 =
        [a, b, c, d].getD j 0 := by
    intro a b c d j hj
    apply BitVec.eq_of_getLsbD_eq
    intro i hi
    interval_cases j <;> simp [hi] <;> interval_cases i <;> simp
  rw [laneWord, lanes _ _ _ _ k hk]
  interval_cases k <;> rfl

/-- Byte `k` of a word written is its lane `k` (R202). -/
theorem wordBytes_getD (w : Word) (k : Nat) (hk : k < 4) : (wordBytes w).getD k 0 = w.extractLsb' (8 * k) 8 := by
  interval_cases k <;> rfl

/-- The range check, as a proposition (R209). -/
@[simp] theorem inRange_iff (size a n : Nat) : inRange size a n = true ↔ a + n ≤ size := by simp [inRange]

end Sys2Proof.Machine
end

