-- ==== Sys2Proof/Laws/Lengths.lean ====
section
/-! SUPPORT. The lengths of what the algorithms return. -/

namespace Sys2Proof.Machine

@[simp] theorem bytesToBits_length (b : Bytes) : (bytesToBits b).length = 8 * b.length := by
  simp [bytesToBits, List.length_flatMap, Nat.mul_comm]

@[simp] theorem bytesTo2Bit_length (b : Bytes) : (bytesTo2Bit b).length = 4 * b.length := by
  simp [bytesTo2Bit, List.length_flatMap, Nat.mul_comm]

theorem twoBitToBytes_length (g : List TwoBit) : (twoBitToBytes g).length = g.length / 4 := by
  induction g using twoBitToBytes.induct with
  | case1 g0 g1 g2 g3 gs ih => simp only [twoBitToBytes, List.length_cons, ih]; omega
  | case2 g h =>
    rw [twoBitToBytes.eq_2 g h]
    match g, h with
    | [], _ => simp
    | [_], _ => simp
    | [_, _], _ => simp
    | [_, _, _], _ => simp
    | a :: b :: c :: d :: l, h => exact absurd rfl (h a b c d l)

@[simp] theorem rotL1_length (b : Bytes) : (rotL1 b).length = b.length := by simp [rotL1]

@[simp] theorem xorExcept_length (b : Bytes) (v : Byte) (k : Nat) : (xorExcept b v k).length = b.length := by
  simp [xorExcept]

@[simp] theorem xorBytes_length (a b : Bytes) : (xorBytes a b).length = min a.length b.length := by simp [xorBytes]

theorem block_length (b : Bytes) (m : Nat) (h : 16 * m + 16 ≤ b.length) : (block b m).length = 16 := by
  simp only [block, List.length_take, List.length_drop]
  omega

@[simp] theorem blocks_length (n : Nat) (b : Bytes) : (blocks n b).length = n := by simp [blocks]

theorem mem_blocks_length {n : Nat} {b x : Bytes} (h : 16 * n ≤ b.length) (hx : x ∈ blocks n b) : x.length = 16 := by
  simp only [blocks, List.mem_map, List.mem_range] at hx
  obtain ⟨m, hm, rfl⟩ := hx
  exact block_length b m (by omega)

@[simp] theorem sApply_length (b : Bytes) (x : SBox) : (sApply b x).length = b.length := by simp [sApply]

/-- The two buckets of a round hold every element that has a bit. -/
theorem bucket_lengths {α : Type} (seq : List α) (bits : List Bool) :
    (bucket false seq bits).length + (bucket true seq bits).length = min seq.length bits.length := by
  induction seq generalizing bits with
  | nil => simp [bucket]
  | cons x xs ih =>
    cases bits with
    | nil => simp [bucket]
    | cons t ts =>
      have := ih ts
      cases t <;> simp [bucket] <;> omega

theorem teaRound_length {α : Type} (seq : List α) (bits : List Bool) :
    (teaRound seq bits).length = min seq.length bits.length := by
  simp [teaRound, bucket_lengths]

theorem teaParty_length {α : Type} (rounds : Nat) (seq : List α) (stream : List Bool)
    (h : stream.length = seq.length * rounds) : (teaParty rounds seq stream).length = seq.length := by
  induction rounds generalizing seq stream with
  | zero => rfl
  | succ r ih =>
    have hr : (teaRound seq (stream.take seq.length)).length = seq.length := by
      rw [teaRound_length, List.length_take, h, Nat.mul_succ]
      omega
    rw [teaParty, ih _ _ (by rw [hr, List.length_drop, h, Nat.mul_succ]; omega), hr]

@[simp] theorem identitySBox_length : identitySBox.length = 256 := by simp [identitySBox]

@[simp] theorem identityPBox_length : identityPBox.length = 64 := by simp [identityPBox]

theorem genSBox_length (seed : Bytes) (h : seed.length = 1216) : (genSBox seed).length = 256 := by
  rw [genSBox, teaParty_length, identitySBox_length]
  simp [h]

theorem genPBox_length (seed : Bytes) (h : seed.length = 320) : (genPBox seed).length = 64 := by
  rw [genPBox, teaParty_length, identityPBox_length]
  simp [h]

@[simp] theorem inverseBox_length {w : Nat} (x : List (BitVec w)) : (inverseBox x).length = x.length := by
  simp [inverseBox]

theorem scatter_length (ps : List (PEntry × TwoBit)) (h : List TwoBit) :
    (ps.foldl (fun h kg => h.set kg.1.toNat kg.2) h).length = h.length := by
  induction ps generalizing h with
  | nil => rfl
  | cons p ps ih => simp [ih]

/-- A P-box of 64 entries gives a block of 16 bytes, under either form. -/
theorem pApply_length (f : PBoxForm) (b : Bytes) (p : PBox) (h : p.length = 64) : (pApply f b p).length = 16 := by
  cases f with
  | gather => simp [pApply, moveGroups, twoBitToBytes_length, h]
  | scatter => simp [pApply, moveGroups, twoBitToBytes_length, scatter_length]

@[simp] theorem encBytes_length (e : Engine) (c : Nat) (b : Bytes) : (encBytes e c b).length = b.length := by
  simp [encBytes]

@[simp] theorem decBytes_length (e : Engine) (rs : SBox) (c : Nat) (b : Bytes) :
    (decBytes e rs c b).length = b.length := by
  simp [decBytes]

/-- A left fold keeps a property its step keeps. -/
theorem foldl_keeps {α β : Type} (P : α → Prop) (f : α → β → α) (hf : ∀ a b, P a → P (f a b)) (l : List β) (a : α)
    (h : P a) : P (l.foldl f a) := by
  induction l generalizing a with
  | nil => exact h
  | cons x xs ih => exact ih _ (hf a x h)

theorem encBlock_length (f : PBoxForm) (e : Engine) (b : Bytes) (hp : e.pb.length = 64) (hb : b.length = 16) :
    (encBlock f e b).length = 16 := by
  refine foldl_keeps (fun x : Bytes => x.length = 16) _ (fun x c hx => ?_) _ _ hb
  simp only [encCycle, encBytes_length]
  split
  · exact pApply_length f x e.pb hp
  · exact hx

theorem decBlock_length (f : PBoxForm) (e : Engine) (rs : SBox) (rp : PBox) (b : Bytes) (hp : rp.length = 64)
    (hb : b.length = 16) : (decBlock f e rs rp b).length = 16 := by
  refine foldl_keeps (fun x : Bytes => x.length = 16) _ (fun x c hx => ?_) _ _ hb
  simp only [decCycle]
  split
  · exact pApply_length f _ rp hp
  · simpa using hx

theorem flatMap_length_16 {α : Type} (l : List α) (f : α → Bytes) (h : ∀ x ∈ l, (f x).length = 16) :
    (l.flatMap f).length = 16 * l.length := by
  induction l with
  | nil => simp
  | cons x xs ih =>
    have h1 := h x (by simp)
    have h2 := ih fun y hy => h y (by simp [hy])
    simp only [List.flatMap_cons, List.length_append, h1, h2, List.length_cons]
    omega

/-- A mix pass of a 2048-byte buffer gives 2048 bytes. -/
theorem mixPass_length (f : PBoxForm) (buf : Bytes) (h : buf.length = 2048) : (mixPass f buf).length = 2048 := by
  have hp : (genPBox (buf.take 320)).length = 64 := genPBox_length _ (by simp [h])
  have := flatMap_length_16 (blocks 128 buf) (fun b => pApply f b (genPBox (buf.take 320)))
    fun x _ => pApply_length f x _ hp
  simp [mixPass, this]

theorem foldBlocks_length (buf : Bytes) (h : buf.length = 2048) : (foldBlocks buf).length = 16 := by
  have key : ∀ (l : List Bytes) (a : Bytes), a.length = 16 → (∀ x ∈ l, x.length = 16) →
      (l.foldl xorBytes a).length = 16 := by
    intro l
    induction l with
    | nil => intro a ha _; exact ha
    | cons x xs ih =>
      intro a ha hl
      refine ih _ ?_ fun y hy => hl y (by simp [hy])
      simp [ha, hl x (by simp)]
  exact key _ _ (by simp) fun x hx => mem_blocks_length (by omega) hx

theorem rotations_length (n : Nat) (c : Bytes) : (rotations n c).length = n * c.length := by
  induction n generalizing c with
  | zero => simp [rotations]
  | succ n ih => simp [rotations, ih, Nat.succ_mul]; omega

theorem xorPasses_length (k : Bytes) (h : k.length = 16) : (xorPasses k).length = 256 := by
  rw [xorPasses, flatMap_length_16 _ _ fun i _ => by simp [h]]
  simp

theorem stageA_length (f : PBoxForm) (k : Bytes) (h : k.length = 16) : (stageA f k).length = 2048 :=
  mixPass_length f _ (mixPass_length f _ (by rw [rotations_length, xorPasses_length k h]))

theorem cbcChain_length (enc : Bytes → Bytes) (henc : ∀ b : Bytes, b.length = 16 → (enc b).length = 16) (l : List Bytes)
    (cv : Bytes) (hcv : cv.length = 16) (hl : ∀ x ∈ l, x.length = 16) : (cbcChain enc cv l).length = 16 * l.length := by
  induction l generalizing cv with
  | nil => simp [cbcChain]
  | cons x xs ih =>
    have hx : (enc (xorBytes x cv)).length = 16 := henc _ (by simp [hcv, hl x (by simp)])
    simp only [cbcChain, List.length_append, hx, List.length_cons, ih _ hx fun y hy => hl y (by simp [hy])]
    omega

theorem stageB_length (f : PBoxForm) (k : Bytes) (h : k.length = 16) : (stageB f k).length = 2048 := by
  have ht := stageA_length f k h
  have hfk := foldBlocks_length _ ht
  have ht2 := stageA_length f _ hfk
  have hp : (engineOf (stageA f (foldBlocks (stageA f k)))).pb.length = 64 :=
    genPBox_length _ (by simp [ht2])
  have hiv : (block (stageA f k) 127).length = 16 := block_length _ _ (by omega)
  have hc := cbcChain_length (encBlock f (engineOf (stageA f (foldBlocks (stageA f k)))))
    (fun b hb => encBlock_length f _ b hp hb) (blocks 128 (stageA f k)) _ hiv
    fun x hx => mem_blocks_length (by omega) hx
  simp only [stageB, List.length_drop, List.length_append, hiv, hc, blocks_length]

@[simp] theorem derive_ks (f : PBoxForm) (k : Bytes) : (derive f k).ks = stageB f k := by rw [derive]

@[simp] theorem derive_sb (f : PBoxForm) (k : Bytes) : (derive f k).sb = genSBox ((stageB f k).take 1216) := by
  rw [derive, engineOf]

@[simp] theorem derive_pb (f : PBoxForm) (k : Bytes) :
    (derive f k).pb = genPBox (((stageB f k).drop 1216).take 320) := by rw [derive, engineOf]

@[simp] theorem draw_length (next : PrngState → Byte × PrngState) (n : Nat) (g : PrngState) :
    (draw next n g).1.length = n := by
  induction n generalizing g with
  | zero => simp [draw]
  | succ n ih => simp [draw, ih]

theorem mix3_fold_length (f : PBoxForm) (d : Bytes) (h : d.length = 2048) :
    (foldBlocks (mixPass f (mixPass f (mixPass f d)))).length = 16 :=
  foldBlocks_length _ (mixPass_length f _ (mixPass_length f _ (mixPass_length f _ h)))

/-- The block of `Gloria()` (R602). -/
theorem gloria_fst (f : PBoxForm) (next : PrngState → Byte × PrngState) (g : PrngState) :
    (gloria f next g).1 = foldBlocks (mixPass f (mixPass f (mixPass f (draw next 2048 g).1))) := by
  unfold gloria
  with_reducible rfl

/-- The generator after `Gloria()` (R604). -/
theorem gloria_snd (f : PBoxForm) (next : PrngState → Byte × PrngState) (g : PrngState) :
    (gloria f next g).2 = (draw next 2048 g).2 := by
  unfold gloria
  with_reducible rfl

theorem gloria_length (f : PBoxForm) (next : PrngState → Byte × PrngState) (g : PrngState) :
    (gloria f next g).1.length = 16 := by
  simp only [gloria_fst, mix3_fold_length _ _ (draw_length next 2048 g)]

@[simp] theorem wordBytes_length (w : Word) : (wordBytes w).length = 4 := rfl

@[simp] theorem hexKey_length (t : Bytes) : (hexKey t).length = 16 := by simp [hexKey]

theorem pad_length (d : Bytes) : (pad d).length = d.length + 16 - d.length % 16 := by
  simp only [pad, padLength, List.length_append, List.length_replicate]
  omega

theorem unpad_length {q p : Bytes} (h : unpad q = some p) : p.length ≤ q.length := by
  simp only [unpad] at h
  split at h
  · cases h
  · cases h
    simp

end Sys2Proof.Machine
end

