-- ==== Sys2Proof/Laws/Ops.lean ====
section
/-! SUPPORT. One lemma per shared operation: what a command's checks say, what success and error completion leave, and
what a step does. -/

namespace Sys2Proof.Machine

theorem guarded_error {i : Instr} {s : State} {c : StatusCode} (f : State → Result) (h : precheck i s = some c) :
    guarded i s f = .next (raiseError c s) := by
  simp [guarded, h, fail]

theorem guarded_pass {i : Instr} {s : State} (f : State → Result) (h : precheck i s = none) : guarded i s f = f s := by
  simp [guarded, h]

/-- A command whose checks fail is an error completion with that code. -/
theorem exec_of_precheck_error (i : Instr) (s : State) (c : StatusCode) (h : precheck i s = some c) :
    exec i s = .next (raiseError c s) := by
  cases i <;> simp only [exec, execNop, execSetkey, execSetkeystr, execSetkeyhex, execGenkey, execEncryptEcb,
    execEncryptCbc, execDecryptEcb, execDecryptCbc, execEncblk, execDecblk, execGloria, execBoxgens, execBoxgenp, execMix,
    execFold, execKiss, execKiss2, execBits, execTo2bit, execFrom2bit, execRotl1, execXorexc, guarded_error _ h]

/-- Every command completes: its meaning answers a next state. -/
theorem exec_answers (i : Instr) (s : State) : ∃ t, exec i s = .next t := by
  cases hp : precheck i s with
  | some c => exact ⟨_, exec_of_precheck_error i s c hp⟩
  | none =>
    cases i <;> simp only [exec, execNop, execSetkey, execSetkeystr, execSetkeyhex, execGenkey, execEncryptEcb,
      execEncryptCbc, execDecryptEcb, execDecryptCbc, execEncblk, execDecblk, execGloria, execBoxgens, execBoxgenp,
      execMix, execFold, execKiss, execKiss2, execBits, execTo2bit, execFrom2bit, execRotl1, execXorexc,
      guarded_pass _ hp, finish, finishWrite, finishDecrypt, fail] <;> (try split) <;> exact ⟨_, rfl⟩

/-- What passing the checks means (R807 items 3 to 5). -/
theorem precheck_eq_none {i : Instr} {s : State} :
    precheck i s = none ↔ (needsKey i = true → s.session.keyValid = true) ∧
      lengthError i s.pending.len.toNat = none ∧
      rangeOk s.params.dmemBytes s.pending.src (srcBytes i s.pending.len.toNat) = true ∧
      rangeOk s.params.dmemBytes s.pending.dst (dstBytes i s.pending.len.toNat) = true := by
  unfold precheck
  cases hk : needsKey i <;> cases hv : s.session.keyValid <;>
    cases hl : lengthError i s.pending.len.toNat <;> simp

/-- The bytes checked at DST lie in DMEM once the checks pass. -/
theorem dst_fits_of_precheck {i : Instr} {s : State} {n : Nat} (h : precheck i s = none)
    (hn : dstBytes i s.pending.len.toNat = some n) : s.pending.dst.toNat + n ≤ s.params.dmemBytes := by
  have := (precheck_eq_none.1 h).2.2.2
  simpa [hn, rangeOk, inRange] using this

/-- What a success that writes at DST leaves. -/
theorem finishWrite_eq (v : Bytes) (s : State) :
    finishWrite v s = .next (completeOk v.length (s.memWrite s.pending.dst.toNat v)) := rfl

/-- One byte of DMEM after a success that writes at DST. -/
theorem readByte_completeOk_memWrite (n : Nat) (s : State) (a : Nat) (v : Bytes) (x : Nat) :
    (completeOk n (s.memWrite a v)).readByte x =
      if a ≤ x ∧ x < a + v.length then v.getD (x - a) 0 else s.readByte x := by
  rw [readByte_congr (t := completeOk n (s.memWrite a v)) (s := s.memWrite a v) rfl rfl, readByte_memWrite]

/-- An error completion leaves DMEM as it was. -/
@[simp] theorem readByte_raiseError (c : StatusCode) (s : State) (x : Nat) :
    (raiseError c s).readByte x = s.readByte x := rfl

/-- The end of a DECRYPT: an error, or the plaintext at DST with the reverse boxes cached. -/
theorem finishDecrypt_cases (p : Option Bytes) (s : State) :
    (p = none ∧ finishDecrypt p s = .next (raiseError .padRange s)) ∨
    ∃ v, p = some v ∧
      finishDecrypt p s = .next (completeOk v.length ((deriveReverse s).memWrite s.pending.dst.toNat v)) := by
  cases p with
  | none => exact .inl ⟨rfl, rfl⟩
  | some v => exact .inr ⟨v, rfl, rfl⟩

/-- The completion step is the decoded command, or an error completion. -/
theorem complete_cases (s : State) :
    (∃ i, decode s.pending.word = .ok i ∧ complete s = exec i s) ∨
    ∃ e, decode s.pending.word = .error e ∧ complete s = .next (raiseError (decodeErrorCode e) s) := by
  unfold complete
  cases h : decode s.pending.word with
  | ok i => exact .inl ⟨i, rfl, rfl⟩
  | error e => exact .inr ⟨e, rfl, rfl⟩

/-- A step is the head of the schedule, or the core's turn where nothing is left. -/
theorem step_cases (s : State) :
    (s.inbox = [] ∧ step s = coreTurn s) ∨
    (∃ es, s.inbox = .coreTurn :: es ∧ step s = coreTurn { s with inbox := es }) ∨
    (∃ t es, s.inbox = .bus t :: es ∧ step s = .next (busAccess t { s with inbox := es })) ∨
    ∃ es, s.inbox = .rst :: es ∧ step s = .next (hardReset { s with inbox := es }) := by
  unfold step advance
  cases h : s.inbox with
  | nil => exact .inl ⟨rfl, rfl⟩
  | cons e es =>
    cases e with
    | bus t => exact .inr (.inr (.inl ⟨t, es, rfl, rfl⟩))
    | coreTurn => exact .inr (.inl ⟨es, rfl, rfl⟩)
    | rst => exact .inr (.inr (.inr ⟨es, rfl, rfl⟩))

/-- The core's turn: the completion of a busy core, or nothing. -/
theorem coreTurn_cases (s : State) :
    (s.regs.busy = true ∧ coreTurn s = complete s) ∨ (s.regs.busy = false ∧ coreTurn s = .next s) := by
  unfold coreTurn
  cases h : s.regs.busy
  · exact .inr ⟨rfl, rfl⟩
  · exact .inl ⟨rfl, rfl⟩

/-- The step after placing a word is the completion of that word. -/
theorem step_withFetchWord (s : State) (nbits w : Nat) :
    step (s.withFetchWord nbits w) = complete (accept (tableWord nbits w) s) := rfl

end Sys2Proof.Machine
end

