-- ==== Sys2Proof/Laws/Bus.lean ====
section
/-! SUPPORT. What a host transaction can do, case by case (R200 to R207, R906, R907). -/

namespace Sys2Proof.Machine

/-- Every transaction is a bus error, a refused write, a taken write, an unspecified read or a defined read. -/
theorem busAccess_cases (t : Txn) (s : State) :
    ((aligned t.addr = false ∨ s.target t.addr = .unmapped) ∧ busAccess t s = busError t.write s) ∨
    (aligned t.addr = true ∧ s.target t.addr ≠ .unmapped ∧
      ((t.write = true ∧ s.regs.busy = true ∧ (s.target t.addr).rejectedWhileBusy = true ∧
          busAccess t s = answer (.write true) s) ∨
        (t.write = true ∧ (s.regs.busy = false ∨ (s.target t.addr).rejectedWhileBusy = false) ∧
          busAccess t s = answer (.write false) (writeTarget t.wdata s (s.target t.addr))) ∨
        (t.write = false ∧ s.regs.busy = true ∧ (s.target t.addr).unspecifiedWhileBusy = true ∧
          busAccess t s =
            answer (.read (Config.busyReadWord s.freeDraws) false) { s with freeDraws := s.freeDraws + 1 }) ∨
        (t.write = false ∧ (s.regs.busy = false ∨ (s.target t.addr).unspecifiedWhileBusy = false) ∧
          busAccess t s = answer (.read (targetValue s (s.target t.addr)) false) s))) := by
  unfold busAccess writeMapped readMapped
  cases ha : aligned t.addr with
  | false => exact .inl ⟨.inl rfl, by simp⟩
  | true =>
    by_cases hm : s.target t.addr = .unmapped
    · exact .inl ⟨.inr hm, by simp [hm]⟩
    · refine .inr ⟨rfl, hm, ?_⟩
      have hb : (s.target t.addr != .unmapped) = true := by simpa using hm
      cases hw : t.write <;> cases hy : s.regs.busy <;>
        cases hr : (s.target t.addr).rejectedWhileBusy <;>
        cases hu : (s.target t.addr).unspecifiedWhileBusy <;> simp [hb]

/-- A transaction of a host that keeps R908 is answered without error, and a read of it draws no free value. -/
theorem disciplined_access (t : Txn) (s : State) (h : disciplined t s = true) :
    (t.write = true ∧ busAccess t s = answer (.write false) (writeTarget t.wdata s (s.target t.addr))) ∨
    (t.write = false ∧ busAccess t s = answer (.read (targetValue s (s.target t.addr)) false) s) := by
  simp only [disciplined, Bool.and_eq_true, bne_iff_ne, Bool.not_eq_true', Bool.and_eq_false_iff] at h
  rcases busAccess_cases t s with ⟨h1, -⟩ | ⟨-, -, ⟨hw, hb, hr, -⟩ | ⟨hw, -, he⟩ | ⟨hw, hb, hu, -⟩ | ⟨hw, -, he⟩⟩
  · rcases h1 with h1 | h1 <;> simp [h1] at h
  · simp [hw, hb, hr] at h
  · exact .inl ⟨hw, he⟩
  · simp [hw, hb, hu] at h
  · exact .inr ⟨hw, he⟩

end Sys2Proof.Machine
end

