-- ==== Sys2Proof/Laws/PerInstr.lean ====
section
/-! SUPPORT. Families of statements made per instruction. TableRow: the encoding of a well-formed command has the mask and
match of its row in the opcode table (R301, R304). -/

namespace Sys2Proof.Laws

/-- MASK and MATCH of a command's row in spec/opcode_table.json. -/
def tableRow : Instr → Word × Word
  | .nop => (0xFFFFFFFF, 0x00000000)
  | .setkey => (0xFFFFFFFF, 0x00000001)
  | .setkeystr => (0xFFFFFFFF, 0x00000002)
  | .setkeyhex => (0xFFFFFFFF, 0x00000003)
  | .genkey => (0xFFFFFFFF, 0x00000004)
  | .encryptEcb => (0xFFFFFFFF, 0x00000008)
  | .encryptCbc => (0xFFFFFFFF, 0x00000108)
  | .decryptEcb => (0xFFFFFFFF, 0x00000009)
  | .decryptCbc => (0xFFFFFFFF, 0x00000109)
  | .encblk => (0xFFFFFFFF, 0x0000000A)
  | .decblk => (0xFFFFFFFF, 0x0000000B)
  | .gloria => (0xFFFFFFFF, 0x0000000C)
  | .boxgens => (0xFFFFFFFF, 0x00000010)
  | .boxgenp => (0xFFFFFFFF, 0x00000011)
  | .mix => (0xFFFFFFFF, 0x00000012)
  | .fold => (0xFFFFFFFF, 0x00000013)
  | .kiss => (0xFFFFFFFF, 0x00000014)
  | .kiss2 => (0xFFFFFFFF, 0x00000015)
  | .bits => (0xFFFFFFFF, 0x00000018)
  | .to2bit => (0xFFFFFFFF, 0x00000019)
  | .from2bit => (0xFFFFFFFF, 0x0000001A)
  | .rotl1 => (0xFFFFFFFF, 0x0000001B)
  | .xorexc _ _ => (0xF000FFFF, 0x0000001C)

/-- The statement of the family. -/
def TableRow.Statement (i : Instr) : Prop := i.wellFormed = true → encode i &&& (tableRow i).1 = (tableRow i).2

theorem TableRow.nop : TableRow.Statement .nop := fun _ => by decide
theorem TableRow.setkey : TableRow.Statement .setkey := fun _ => by decide
theorem TableRow.setkeystr : TableRow.Statement .setkeystr := fun _ => by decide
theorem TableRow.setkeyhex : TableRow.Statement .setkeyhex := fun _ => by decide
theorem TableRow.genkey : TableRow.Statement .genkey := fun _ => by decide
theorem TableRow.encryptEcb : TableRow.Statement .encryptEcb := fun _ => by decide
theorem TableRow.encryptCbc : TableRow.Statement .encryptCbc := fun _ => by decide
theorem TableRow.decryptEcb : TableRow.Statement .decryptEcb := fun _ => by decide
theorem TableRow.decryptCbc : TableRow.Statement .decryptCbc := fun _ => by decide
theorem TableRow.encblk : TableRow.Statement .encblk := fun _ => by decide
theorem TableRow.decblk : TableRow.Statement .decblk := fun _ => by decide
theorem TableRow.gloria : TableRow.Statement .gloria := fun _ => by decide
theorem TableRow.boxgens : TableRow.Statement .boxgens := fun _ => by decide
theorem TableRow.boxgenp : TableRow.Statement .boxgenp := fun _ => by decide
theorem TableRow.mix : TableRow.Statement .mix := fun _ => by decide
theorem TableRow.fold : TableRow.Statement .fold := fun _ => by decide
theorem TableRow.kiss : TableRow.Statement .kiss := fun _ => by decide
theorem TableRow.kiss2 : TableRow.Statement .kiss2 := fun _ => by decide
theorem TableRow.bits : TableRow.Statement .bits := fun _ => by decide
theorem TableRow.to2bit : TableRow.Statement .to2bit := fun _ => by decide
theorem TableRow.from2bit : TableRow.Statement .from2bit := fun _ => by decide
theorem TableRow.rotl1 : TableRow.Statement .rotl1 := fun _ => by decide

theorem TableRow.xorexc (val : Byte) (idx : Nat) : TableRow.Statement (.xorexc val idx) := by
  intro h
  have hi : idx < 16 := by simpa [Instr.wellFormed] using h
  simp only [encode, tableRow]
  have key : ∀ k : Fin 16, ∀ v : Byte,
      (BitVec.ofNat 32 k.val <<< 24 ||| v.setWidth 32 <<< 16 ||| 0x1C#32) &&& 0xF000FFFF#32 = 0x1C#32 := by
    decide +kernel
  exact key ⟨idx, hi⟩ val

end Sys2Proof.Laws
end

