-- ==== Sys2Proof/Tests/Slice0.lean ====
section
/-! SUPPORT. The model's own tests: well-formedness and decoding against words written out from the spec, single steps against
the vectors of 95_test_vectors.md, and a witness for the hypotheses of every obligation. -/

namespace Sys2Proof.Tests

open Sys2Proof.Machine Sys2Proof.Claims

/- One kernel check after another: each waiting one would hold a thread's stack. -/
set_option Elab.async false

/-! ### Small states -/

/-- The bytes 00 01 .. 0F. -/
def k01 : Bytes := [0, 1, 2, 3, 4, 5, 6, 7, 8, 9, 10, 11, 12, 13, 14, 15]

/-- The reset state with a snapshot of operands, KEY_IN of vector T1, and some bytes of DMEM written. -/
def st (src len dst : Word) (mem : Memory) : State :=
  { State.reset with
    pending := { word := 0, src := src, len := len, dst := dst,
                 keyIn := #v[0x03020100, 0x07060504, 0x0B0A0908, 0x0F0E0D0C] }
    dmem := mem }

/-- The same with the zero key in force: its derived state is what reset leaves (R510). -/
def keyed (src len dst : Word) (mem : Memory) : State :=
  { st src len dst mem with session := { Session.reset with keyValid := true } }

/-- A session no run reaches, whose ciphertexts all decrypt to bytes that are no pad count. -/
def blind (s : State) : State :=
  { s with session := { s.session with keyValid := true, sbox := [], ks := List.replicate 2048 0xFF } }

/-- The reset state, idle, with events to come. -/
def idle (es : List Event) : State := { State.reset with inbox := es }

/-- The same with a command word accepted and not completed. -/
def busy (w : Word) (es : List Event) : State := { accept w State.reset with inbox := es }

/-- The state a command leaves. -/
def after (i : Instr) (s : State) : State := match exec i s with | .next t => t | .fault _ => s | .refused _ => s

theorem exec_after (i : Instr) (s : State) : exec i s = .next (after i s) := by
  obtain ⟨t, h⟩ := exec_answers i s
  simp [after, h]

/-- The state a step leaves. -/
def stepped (s : State) : State := match step s with | .next t => t | .fault _ => s | .refused _ => s

/-! ### Well-formedness -/

/-- IDX has four bits (R301). -/
theorem test_wellFormed_refuses_idx_16 : (Instr.xorexc 0 16).wellFormed = false := by decide
theorem test_wellFormed_takes_idx_15 : (Instr.xorexc 0xFF 15).wellFormed = true := by decide

/-! ### Decoding: one word of every row, from R304 -/

theorem test_decode_session_rows :
    decode 0x00000000 = .ok .nop ∧ decode 0x00000001 = .ok .setkey ∧ decode 0x00000002 = .ok .setkeystr ∧
    decode 0x00000003 = .ok .setkeyhex ∧ decode 0x00000004 = .ok .genkey := by decide

theorem test_decode_cipher_rows :
    decode 0x00000008 = .ok .encryptEcb ∧ decode 0x00000108 = .ok .encryptCbc ∧ decode 0x00000009 = .ok .decryptEcb ∧
    decode 0x00000109 = .ok .decryptCbc ∧ decode 0x0000000A = .ok .encblk ∧ decode 0x0000000B = .ok .decblk ∧
    decode 0x0000000C = .ok .gloria := by decide

theorem test_decode_component_rows :
    decode 0x00000010 = .ok .boxgens ∧ decode 0x00000011 = .ok .boxgenp ∧ decode 0x00000012 = .ok .mix ∧
    decode 0x00000013 = .ok .fold ∧ decode 0x00000014 = .ok .kiss ∧ decode 0x00000015 = .ok .kiss2 := by decide

/-- The XOREXC words are those of vectors B13, B15 and B17. -/
theorem test_decode_bit_rows :
    decode 0x00000018 = .ok .bits ∧ decode 0x00000019 = .ok .to2bit ∧ decode 0x0000001A = .ok .from2bit ∧
    decode 0x0000001B = .ok .rotl1 ∧ decode 0x03FF001C = .ok (.xorexc 0xFF 3) ∧
    decode 0x0F5A001C = .ok (.xorexc 0x5A 15) ∧ decode 0x0010001C = .ok (.xorexc 0x10 0) := by decide

/-- Vectors E1 to E4 and B16. -/
theorem test_decode_bad_commands :
    decode 0x05 = .error .badCommand ∧ decode 0x0D = .error .badCommand ∧ decode 0x16 = .error .badCommand ∧
    decode 0xFF = .error .badCommand ∧ decode 0x08000000 = .error .badCommand ∧
    decode 0x0000FC08 = .error .badCommand ∧ decode 0x0000030A = .error .badCommand ∧
    decode 0x1000001C = .error .badCommand ∧ decode 0x0000011C = .error .badCommand := by decide

/-- R307 and vector M18. -/
theorem test_decode_invalid_modes :
    decode 0x208 = .error .invalidMode ∧ decode 0x308 = .error .invalidMode ∧
    decode 0x209 = .error .invalidMode ∧ decode 0x309 = .error .invalidMode := by decide

/-- The encodings of R308 with fields. -/
theorem test_encode_fields :
    encode (.xorexc 0xFF 3) = 0x03FF001C ∧ encode (.xorexc 0x5A 15) = 0x0F5A001C ∧ encode .decryptCbc = 0x109 := by
  decide

theorem test_decodeTableWord :
    decodeTableWord 32 0x03FF001C = some (.xorexc 0xFF 3) ∧ decodeTableWord 32 0x108 = some .encryptCbc ∧
    decodeTableWord 32 0x05 = none := by decide

/-- A placed word is the next thing that runs, and the core is idle after it. -/
theorem test_withFetchWord_runs :
    (stepped (State.reset.withFetchWord 32 0x03FF001C)).regs.cmd = 0x03FF001C ∧
    (stepped (State.reset.withFetchWord 32 0x03FF001C)).regs.busy = false ∧
    (stepped (State.reset.withFetchWord 32 0x03FF001C)).regs.done = true := by decide

/-! ### Single commands against the vectors of 95_test_vectors.md -/

/-- B1. -/
theorem test_bits_B1 :
    (after .bits (st 0 2 16 (Memory.run 0 [0xA5, 0x01]))).memRead 16 16 =
      [1, 0, 1, 0, 0, 1, 0, 1, 0, 0, 0, 0, 0, 0, 0, 1] := by decide +kernel

/-- B4: 8 · LEN does not wrap. -/
theorem test_bits_B4 : (after .bits (st 0 0x20000000 0 [])).regs.err = .badRange := by decide +kernel

/-- B6. -/
theorem test_to2bit_B6 :
    (after .to2bit (st 0 0 16 (Memory.run 0 (0xE4 :: List.replicate 15 0)))).memRead 16 5 = [3, 2, 1, 0, 0] := by
  decide +kernel

/-- B10: groups are taken mod 4, and the first is the most significant. -/
theorem test_from2bit_B10 :
    (after .from2bit (st 0 0 64 (Memory.run 0 (List.replicate 16 [7, 6, 5, 4]).flatten))).memRead 64 2 =
      [0xE4, 0xE4] := by decide +kernel

/-- B12. -/
theorem test_rotL1_B12 : rotL1 [0x00, 0x01, 0x7F, 0x80, 0x81, 0xFF] = [0x00, 0x02, 0xFE, 0x01, 0x03, 0xFF] := by
  decide +kernel

/-- B13, in place. -/
theorem test_xorexc_B13 :
    (after (.xorexc 0xFF 3) (st 16 0 16 (Memory.run 16 k01))).memRead 16 16 =
      [0xFF, 0xFE, 0xFD, 0x03, 0xFB, 0xFA, 0xF9, 0xF8, 0xF7, 0xF6, 0xF5, 0xF4, 0xF3, 0xF2, 0xF1, 0xF0] := by
  decide +kernel

/-- B15. -/
theorem test_xorExcept_B15 :
    xorExcept k01 0x5A 15 =
      [0x5A, 0x5B, 0x58, 0x59, 0x5E, 0x5F, 0x5C, 0x5D, 0x52, 0x53, 0x50, 0x51, 0x56, 0x57, 0x54, 0x0F] := by
  decide +kernel

/-- X1 and X2. -/
theorem test_teaParty_X1_X2 :
    teaParty 1 (List.range 8) (bytesToBits [0x96]) = [1, 2, 4, 7, 0, 3, 5, 6] ∧
    teaParty 2 (List.range 4) (bytesToBits [0x1B]) = [1, 0, 2, 3] := by decide +kernel

/-- X6, all 64 entries: `P[4a + b] = (15 − a) + 16 b`. -/
theorem test_genPBox_X6 :
    genPBox (List.replicate 320 0xAA) =
      (List.range 64).map fun i => BitVec.ofNat 6 ((15 - i / 4) + 16 * (i % 4)) := by decide +kernel

/-- X13, both forms, with the box of X6. -/
theorem test_pApply_X13 :
    pApply .gather k01 ((List.range 64).map fun i => BitVec.ofNat 6 ((15 - i / 4) + 16 * (i % 4))) =
      [0xFF, 0x1B, 0, 0, 0xAA, 0x1B, 0, 0, 0x55, 0x1B, 0, 0, 0x00, 0x1B, 0, 0] ∧
    pApply .scatter k01 ((List.range 64).map fun i => BitVec.ofNat 6 ((15 - i / 4) + 16 * (i % 4))) =
      [0, 0, 0, 0, 0, 0, 0, 0, 0xFF, 0xAA, 0x55, 0, 0xE4, 0xE4, 0xE4, 0xE4] := by decide +kernel

/-- K1 (bytes 16 to 19) and K2 (first four bytes). -/
theorem test_premix_K1_K2 :
    (xorExcept k01 (k01.getD 1 0) 1).take 4 = [0x01, 0x01, 0x03, 0x02] ∧ (rotL1 k01).take 4 = [0x00, 0x02, 0x04, 0x06] := by
  decide +kernel

/-- M10 to M13: the unpadding of the decrypted bytes. -/
theorem test_unpad_M10_to_M13 :
    (unpad (List.replicate 31 0 ++ [0x11])).map List.length = some 15 ∧ unpad (List.replicate 31 0 ++ [0x20]) = some [] ∧
    unpad (List.replicate 31 0 ++ [0x21]) = none ∧
    (unpad (List.replicate 32 0)).map List.length = some 32 := by decide +kernel

/-- S8: pad lengths. -/
theorem test_padLength_S8 :
    [0, 1, 15, 16, 17].map (fun n => padLength (List.replicate n 0)) = [16, 15, 1, 16, 15] := by decide +kernel

/-- M20 and M21: the output range is checked for LEN + 16 − LEN mod 16. -/
theorem test_encryptEcb_M20_M21 :
    precheck .encryptEcb (keyed 0 0 65520 []) = none ∧ precheck .encryptEcb (keyed 0 0 65521 []) = some .badRange := by
  decide +kernel

/-- M16 and M17. -/
theorem test_decrypt_M16_M17 :
    (after .decryptEcb (keyed 0 20 0 [])).regs.err = .badLength ∧ (after .decryptEcb (keyed 0 0 0 [])).regs.err = .badLength ∧
    (after .decryptCbc (keyed 0 16 0 [])).regs.err = .badLength := by decide +kernel

/-- M19 and R9. -/
theorem test_encrypt_needs_key_M19 :
    (after .encryptEcb (st 0 0 0 [])).regs.err = .keyNotSet ∧ (after .encblk (st 0 0 0 [])).regs.err = .keyNotSet ∧
    (after .decblk (st 0 0 0 [])).regs.err = .keyNotSet := by decide +kernel

/-- R10's flag: a successful DECBLK raises REV_VALID; T10: a key command drops it. -/
theorem test_decblk_raises_revValid : (after .decblk (keyed 0 0 0 [])).session.revValid = true := by decide
theorem test_setkey_drops_revValid :
    (after .setkey (after .decblk (keyed 0 0 0 []))).session.revValid = false := by decide

/-- T1: the key of KEY_IN. -/
theorem test_setkey_T1 :
    (after .setkey (st 0 0 0 [])).session.key = k01 ∧ (after .setkey (st 0 0 0 [])).session.keyValid = true := by
  decide

/-- T4 and T7. -/
theorem test_key_lengths_T4_T7 :
    (after .setkeystr (st 0 15 0 [])).regs.err = .invalidKeyLength ∧
    (after .setkeyhex (st 0 31 0 [])).regs.err = .invalidKeyLength ∧
    (after .setkeyhex (st 0 33 0 [])).regs.err = .invalidKeyLength := by decide +kernel

/-- T6: a space as the last byte. -/
theorem test_setkeyhex_T6 :
    (after .setkeyhex (st 0 32 0 (Memory.run 0 (List.replicate 31 0x30 ++ [0x20])))).regs.err = .invalidKeyFormat := by
  decide +kernel

/-- R704: digits 0, A, a and f; the first digit of a pair is the high nibble. -/
theorem test_setkeyhex_digits :
    (after .setkeyhex (st 0 32 0 (Memory.run 0 ([0x30, 0x41, 0x61, 0x31] ++ List.replicate 28 0x66)))).session.key.take 3 =
      [0x0A, 0xA1, 0xFF] := by decide +kernel

/-- T9. -/
theorem test_nop_T9 :
    (after .nop (st 0 0 0 [])).regs.done = true ∧ (after .nop (st 0 0 0 [])).regs.outlen = 0 := by decide

/-- X12 and G6: the last byte in range, and one past it. -/
theorem test_range_edges_X12_G6 :
    precheck .boxgens (st 0 0 65280 []) = none ∧ precheck .boxgens (st 0 0 65281 []) = some .badRange ∧
    precheck .gloria (st 0 0 65536 []) = some .badRange ∧ precheck .gloria (st 0 0 65520 []) = none := by decide +kernel

/-- The rest of the component commands check 2048 bytes (R520 to R523). -/
theorem test_range_edges_schedule :
    precheck .mix (st 63488 0 0 []) = none ∧ precheck .fold (st 63489 0 0 []) = some .badRange ∧
    precheck .kiss (st 65520 0 63489 []) = some .badRange ∧ precheck .kiss2 (st 65521 0 0 []) = some .badRange := by
  decide +kernel

/-! ### Bus and lifecycle -/

/-- E5, E6, E7: misaligned, unmapped, read-only. -/
theorem test_bus_E5_E6_E7 :
    (stepped (idle [writeTo 0x10002 0])).replies = [.write true] ∧
    (stepped (idle [readFrom 0xFFC 0])).replies = [.read 0 true] ∧
    (stepped (idle [readFrom 0x1A80 0])).replies = [.read 0 true] ∧
    (stepped (idle [writeTo 0 0])).replies = [.write false] := by decide

/-- E8: a second CMD write and a SRC write while busy. -/
theorem test_bus_E8 :
    (stepped (busy 0 [writeTo 0x00C 1])).replies = [.write true] ∧ (stepped (busy 0 [writeTo 0x00C 1])).regs.cmd = 0 ∧
    (stepped (busy 0 [writeTo 0x010 1])).replies = [.write true] := by decide

/-- E12: SRST wins over IE in one write. -/
theorem test_ctrl_E12 : (stepped (idle [writeTo 0x004 3])).regs.ie = false := by decide

/-- E10: setting IE while DONE = 1 raises irq at once. -/
theorem test_irq_E10 :
    (stepped { idle [writeTo 0x004 1] with regs := { Registers.reset with done := true } }).irq = true := by decide

/-- The T1 STATUS word (R112). -/
theorem test_status_T1 : statusWord (after .setkey (st 0 0 0 [])) = 0x00000006 := by decide

/-- M18 as STATUS (P3): INVALID_MODE, not KEY_NOT_SET. -/
theorem test_status_P3 : statusWord (stepped (busy 0x208 [.coreTurn])) = 0x00000202 := by decide

/-- P3's DMEM word as laid down by LOAD: byte 0x2F is 0x20. -/
theorem test_dmem_lanes :
    (stepped (idle [writeTo 0x1002C 0x20000000])).memRead 0x2C 4 = [0, 0, 0, 0x20] := by decide +kernel

/-! ### Instances with other parameters (R12) -/

/-- The smallest instance, with the other PBOX_FORM, and some events to come. -/
def small (es : List Event) : State :=
  { State.resetOf { dmemBytes := 8224, pboxForm := .scatter } with inbox := es }

/-- The last DMEM word of the smallest instance is mapped, the next offset is not (R204, R205). -/
theorem test_small_dmem_window :
    (stepped (small [writeTo (BitVec.ofNat 32 (0x10000 + 8220)) 1])).replies = [.write false] ∧
    (stepped (small [writeTo (BitVec.ofNat 32 (0x10000 + 8224)) 1])).replies = [.write true] ∧
    (stepped (idle [writeTo (BitVec.ofNat 32 (0x10000 + 8224)) 1])).replies = [.write false] := by decide

/-- The range check uses the instance's size (R209). -/
theorem test_small_range :
    precheck .gloria { small [] with pending := { Pending.reset with dst := 8208 } } = none ∧
    precheck .gloria { small [] with pending := { Pending.reset with dst := 8209 } } = some .badRange := by
  decide +kernel

/-- A pulse on rst keeps the instance what it is. -/
theorem test_small_rst : (stepped (small [.rst])).params = { dmemBytes := 8224, pboxForm := .scatter } := rfl

/-! ### Witnesses: each obligation's hypotheses are met together, clause by clause, at edges of their ranges -/

theorem witness_DecodeOfEncodeIsTheCommand : (Instr.xorexc 0xFF 15).wellFormed = true := by decide

theorem witness_EncodeOfDecodeIsTheWord : decode 0x0FFF001C = .ok (.xorexc 0xFF 15) := by decide

theorem witness_StepRunsTheDecodedCommand :
    (CoreMovesNext (busy 0x13 [.coreTurn, .rst]) [.rst] ∧ (busy 0x13 [.coreTurn, .rst]).regs.busy = true ∧
      decode (busy 0x13 [.coreTurn, .rst]).pending.word = .ok .fold) ∧
    (CoreMovesNext (busy 0x03FF001C []) [] ∧ (busy 0x03FF001C []).regs.busy = true ∧
      decode (busy 0x03FF001C []).pending.word = .ok (.xorexc 0xFF 3)) :=
  ⟨⟨.inl rfl, by decide, by decide⟩, ⟨.inr ⟨rfl, rfl⟩, by decide, by decide⟩⟩

theorem witness_UndecodableWordCompletesWithItsError :
    (CoreMovesNext (busy 0x05 [.coreTurn]) [] ∧ (busy 0x05 [.coreTurn]).regs.busy = true ∧
      decode (busy 0x05 [.coreTurn]).pending.word = .error .badCommand) ∧
    (CoreMovesNext (busy 0x309 []) [] ∧ (busy 0x309 []).regs.busy = true ∧
      decode (busy 0x309 []).pending.word = .error .invalidMode) :=
  ⟨⟨.inl rfl, by decide, by decide⟩, ⟨.inr ⟨rfl, rfl⟩, by decide, by decide⟩⟩

theorem witness_CmdWriteIsAccepted :
    (idle [writeTo 0x00C 0xFFFFFFFF]).regs.busy = false ∧
    (idle [writeTo 0x00C 0xFFFFFFFF]).inbox = writeTo 0x00C 0xFFFFFFFF :: [] := ⟨rfl, rfl⟩

theorem witness_ErrorCompletionIsPrecise :
    ∃ t, complete (busy 0x05 []) = .next t ∧ t.regs.err ≠ .ok := ⟨_, rfl, by decide⟩

theorem witness_KeyedCommandsNeedAKey :
    (∀ i ∈ keyedCommands, i ∈ keyedCommands ∧ (st 0 0 0 []).session.keyValid = false) ∧ keyedCommands.length = 6 :=
  ⟨fun _ h => ⟨h, rfl⟩, rfl⟩

theorem witness_WrongLengthsAreReported :
    lenOf (st 0 17 0 []) ≠ 16 ∧ lenOf (st 0 15 0 []) ≠ 16 ∧ lenOf (st 0 31 0 []) ≠ 32 ∧ lenOf (st 0 33 0 []) ≠ 32 ∧
    ((keyed 0 0 0 []).session.keyValid = true ∧ ¬(16 ≤ lenOf (keyed 0 0 0 []) ∧ lenOf (keyed 0 0 0 []) % 16 = 0)) ∧
    ((keyed 0 17 0 []).session.keyValid = true ∧ ¬(16 ≤ lenOf (keyed 0 17 0 []) ∧ lenOf (keyed 0 17 0 []) % 16 = 0)) ∧
    ((keyed 0 16 0 []).session.keyValid = true ∧ ¬(32 ≤ lenOf (keyed 0 16 0 []) ∧ lenOf (keyed 0 16 0 []) % 16 = 0)) := by
  decide +kernel

/-- One byte past the end for each clause of the range statement. -/
theorem witness_RangesOutsideDmemAreReported :
    (∀ r ∈ fixedRanges, ¬(Fits (st 65536 0 65536 []) (srcOf (st 65536 0 65536 [])) r.2.1 ∧ Fits (st 65536 0 65536 []) (dstOf (st 65536 0 65536 [])) r.2.2)) ∧
    ¬(Fits (st 65521 0 0 []) (srcOf (st 65521 0 0 [])) 16 ∧ Fits (st 65521 0 0 []) (dstOf (st 65521 0 0 [])) 16) ∧
    ¬(Fits (st 0 8193 0 []) (srcOf (st 0 8193 0 [])) (lenOf (st 0 8193 0 [])) ∧ Fits (st 0 8193 0 []) (dstOf (st 0 8193 0 [])) (8 * lenOf (st 0 8193 0 []))) ∧
    ¬Fits (st 0 0 65521 []) (dstOf (st 0 0 65521 [])) 16 ∧
    (lenOf (st 65521 16 0 []) = 16 ∧ ¬Fits (st 65521 16 0 []) (srcOf (st 65521 16 0 [])) 16) ∧
    (lenOf (st 65505 32 0 []) = 32 ∧ ¬Fits (st 65505 32 0 []) (srcOf (st 65505 32 0 [])) 32) := by
  decide +kernel

theorem witness_RangesOutsideDmemAreReported_keyed :
    (keyed 65521 0 0 []).session.keyValid = true ∧
    ¬(Fits (keyed 65521 0 0 []) (srcOf (keyed 65521 0 0 [])) 16 ∧ Fits (keyed 65521 0 0 []) (dstOf (keyed 65521 0 0 [])) 16) ∧
    ¬(Fits (keyed 0 0 65521 []) (srcOf (keyed 0 0 65521 [])) (lenOf (keyed 0 0 65521 [])) ∧
      Fits (keyed 0 0 65521 []) (dstOf (keyed 0 0 65521 [])) (lenOf (keyed 0 0 65521 []) + 16 - lenOf (keyed 0 0 65521 []) % 16)) ∧
    ¬(Fits (keyed 0 15 65505 []) (srcOf (keyed 0 15 65505 [])) (lenOf (keyed 0 15 65505 [])) ∧
      Fits (keyed 0 15 65505 []) (dstOf (keyed 0 15 65505 [])) (16 + lenOf (keyed 0 15 65505 []) + 16 - lenOf (keyed 0 15 65505 []) % 16)) ∧
    (16 ≤ lenOf (keyed 65521 16 0 []) ∧ lenOf (keyed 65521 16 0 []) % 16 = 0 ∧
      ¬(Fits (keyed 65521 16 0 []) (srcOf (keyed 65521 16 0 [])) (lenOf (keyed 65521 16 0 [])) ∧
        Fits (keyed 65521 16 0 []) (dstOf (keyed 65521 16 0 [])) (lenOf (keyed 65521 16 0 [])))) ∧
    (32 ≤ lenOf (keyed 0 32 65521 []) ∧ lenOf (keyed 0 32 65521 []) % 16 = 0 ∧
      ¬(Fits (keyed 0 32 65521 []) (srcOf (keyed 0 32 65521 [])) (lenOf (keyed 0 32 65521 [])) ∧
        Fits (keyed 0 32 65521 []) (dstOf (keyed 0 32 65521 [])) (lenOf (keyed 0 32 65521 []) - 16))) := by
  decide +kernel

theorem witness_BadDataIsReported_hex :
    lenOf (st 65504 32 0 (Memory.run 65535 [0x20])) = 32 ∧ Fits (st 65504 32 0 (Memory.run 65535 [0x20])) (srcOf (st 65504 32 0 (Memory.run 65535 [0x20]))) 32 ∧
    ∃ k, k < 32 ∧ isHexDigit (srcByte (st 65504 32 0 (Memory.run 65535 [0x20])) k) = false :=
  ⟨by decide +kernel, by decide +kernel, 31, by decide +kernel, by decide +kernel⟩

theorem witness_BadDataIsReported_ecb :
    (blind (st 0 16 0 [])).session.keyValid = true ∧ 16 ≤ lenOf (blind (st 0 16 0 [])) ∧
    lenOf (blind (st 0 16 0 [])) % 16 = 0 ∧
    Fits (blind (st 0 16 0 [])) (srcOf (blind (st 0 16 0 []))) (lenOf (blind (st 0 16 0 []))) ∧
    Fits (blind (st 0 16 0 [])) (dstOf (blind (st 0 16 0 []))) (lenOf (blind (st 0 16 0 []))) ∧
    (ecbPlainOf (blind (st 0 16 0 []))).length < padCount (ecbPlainOf (blind (st 0 16 0 []))) := by decide +kernel

/-- Thirty-two zero bytes at offset 0. -/
def zeros32 : Memory := Memory.run 0 (List.replicate 32 0)

theorem witness_BadDataIsReported_cbc :
    (blind (st 0 32 0 zeros32)).session.keyValid = true ∧ 32 ≤ lenOf (blind (st 0 32 0 zeros32)) ∧
    lenOf (blind (st 0 32 0 zeros32)) % 16 = 0 ∧
    Fits (blind (st 0 32 0 zeros32)) (srcOf (blind (st 0 32 0 zeros32))) (lenOf (blind (st 0 32 0 zeros32))) ∧
    Fits (blind (st 0 32 0 zeros32)) (dstOf (blind (st 0 32 0 zeros32))) (lenOf (blind (st 0 32 0 zeros32)) - 16) ∧
    (cbcPlainOf (blind (st 0 32 0 zeros32))).length < padCount (cbcPlainOf (blind (st 0 32 0 zeros32))) := by
  decide +kernel

theorem witness_CommandsWriteOnlyTheirOutputRange :
    (keyed 0 0 65520 []).params.legal ∧ (keyed 0 0 65520 []).session.pbox.length = 64 ∧
    exec .encblk (keyed 0 0 65520 []) = .next (after .encblk (keyed 0 0 65520 [])) ∧
    exec (.xorexc 0xFF 15) (keyed 65520 0 65520 []) = .next (after (.xorexc 0xFF 15) (keyed 65520 0 65520 [])) :=
  ⟨by decide, by decide +kernel, exec_after _ _, exec_after _ _⟩

theorem witness_OnlyThreeCommandsDraw :
    (∃ t, exec .gloria (st 0 0 65520 []) = .next t ∧ .gloria ∈ drawingCommands ∧ t.regs.err = .ok) ∧
    (∃ t, exec .gloria (st 0 0 65521 []) = .next t ∧ t.regs.err = .badRange) ∧
    ∃ t, exec .rotl1 (st 0 0 0 []) = .next t ∧ .rotl1 ∉ drawingCommands :=
  ⟨⟨_, exec_after _ _, by decide, by decide +kernel⟩, ⟨_, exec_after _ _, by decide +kernel⟩,
    ⟨_, exec_after _ _, by decide⟩⟩

theorem witness_SessionChangesOnlyAsFixed :
    (∃ t, exec .mix (st 0 0 63488 []) = .next t ∧ .mix ∉ keyCommands ∧ .mix ∉ decryptCommands) ∧
    (∃ t, exec .setkeystr (st 0 15 0 []) = .next t ∧ t.regs.err ≠ .ok) ∧
    (∃ t, exec .decblk (keyed 65520 0 0 []) = .next t ∧ .decblk ∈ decryptCommands ∧ t.regs.err = .ok) ∧
    ∃ t, exec .genkey (st 0 0 0 []) = .next t ∧ .genkey ∈ keyCommands ∧ t.regs.err = .ok :=
  ⟨⟨_, exec_after _ _, by decide, by decide⟩, ⟨_, exec_after _ _, by decide +kernel⟩,
    ⟨_, exec_after _ _, by decide, by decide +kernel⟩, ⟨_, exec_after _ _, by decide, by decide +kernel⟩⟩

theorem witness_SetkeystrEstablishesText :
    lenOf (st 65520 16 0 []) = 16 ∧ Fits (st 65520 16 0 []) (srcOf (st 65520 16 0 [])) 16 := by decide +kernel

/-- Thirty-two digits at the top of DMEM, the edges 0, 9, A, F, a, f among them. -/
def hexText : Memory := Memory.run 65504 ([0x30, 0x39, 0x41, 0x46, 0x61, 0x66] ++ List.replicate 26 0x30)

theorem witness_SetkeyhexEstablishesHexText :
    lenOf (st 65504 32 0 hexText) = 32 ∧ Fits (st 65504 32 0 hexText) (srcOf (st 65504 32 0 hexText)) 32 ∧
    ∀ k, k < 32 → isHexDigit (srcByte (st 65504 32 0 hexText) k) = true := by decide +kernel

/-- ENCBLK and DECBLK have the same hypotheses. -/
theorem witness_EncblkEncryptsOneBlock :
    (keyed 65520 0 65520 []).session.pbox.length = 64 ∧ (keyed 65520 0 65520 []).session.keyValid = true ∧
    Fits (keyed 65520 0 65520 []) (srcOf (keyed 65520 0 65520 [])) 16 ∧ Fits (keyed 65520 0 65520 []) (dstOf (keyed 65520 0 65520 [])) 16 := by decide +kernel

theorem witness_DecblkDecryptsOneBlock :
    (keyed 0 0 65520 []).session.pbox.length = 64 ∧ (keyed 0 0 65520 []).session.keyValid = true ∧
    Fits (keyed 0 0 65520 []) (srcOf (keyed 0 0 65520 [])) 16 ∧ Fits (keyed 0 0 65520 []) (dstOf (keyed 0 0 65520 [])) 16 := by decide +kernel

theorem witness_GloriaWritesOneBlock : Fits (st 0 0 65520 []) (dstOf (st 0 0 65520 [])) 16 := by decide +kernel

/-- LEN = 0, with room for the pad block only (vector M20). -/
theorem witness_EncryptEcbWritesPaddedBlocks :
    (keyed 65536 0 65520 []).session.pbox.length = 64 ∧ (keyed 65536 0 65520 []).session.keyValid = true ∧
    Fits (keyed 65536 0 65520 []) (srcOf (keyed 65536 0 65520 [])) (lenOf (keyed 65536 0 65520 [])) ∧
    Fits (keyed 65536 0 65520 []) (dstOf (keyed 65536 0 65520 [])) (lenOf (keyed 65536 0 65520 []) + 16 - lenOf (keyed 65536 0 65520 []) % 16) := by
  decide +kernel

theorem witness_EncryptCbcWritesIvAndChain :
    (keyed 0 15 65504 []).session.pbox.length = 64 ∧ (keyed 0 15 65504 []).session.keyValid = true ∧
    Fits (keyed 0 15 65504 []) (srcOf (keyed 0 15 65504 [])) (lenOf (keyed 0 15 65504 [])) ∧
    Fits (keyed 0 15 65504 []) (dstOf (keyed 0 15 65504 []))
      (16 + lenOf (keyed 0 15 65504 []) + 16 - lenOf (keyed 0 15 65504 []) % 16) := by decide +kernel

/-- A pad count is a byte, so 256 bytes hold any. -/
theorem padCount_le (q : Bytes) : padCount q ≤ 256 := Nat.le_of_lt (q.getD (q.length - 1) 0).isLt

theorem witness_DecryptEcbWritesUnpaddedBytes :
    (keyed 65280 256 65280 []).session.pbox.length = 64 ∧ (keyed 65280 256 65280 []).session.keyValid = true ∧
    16 ≤ lenOf (keyed 65280 256 65280 []) ∧ lenOf (keyed 65280 256 65280 []) % 16 = 0 ∧
    Fits (keyed 65280 256 65280 []) (srcOf (keyed 65280 256 65280 [])) (lenOf (keyed 65280 256 65280 [])) ∧
    Fits (keyed 65280 256 65280 []) (dstOf (keyed 65280 256 65280 [])) (lenOf (keyed 65280 256 65280 [])) ∧
    padCount (ecbPlainOf (keyed 65280 256 65280 [])) ≤ lenOf (keyed 65280 256 65280 []) :=
  ⟨by decide +kernel, by decide +kernel, by decide +kernel, by decide +kernel, by decide +kernel, by decide +kernel,
    padCount_le _⟩

theorem witness_DecryptCbcWritesUnpaddedBytes :
    (keyed 65264 272 65280 []).session.pbox.length = 64 ∧ (keyed 65264 272 65280 []).session.keyValid = true ∧
    32 ≤ lenOf (keyed 65264 272 65280 []) ∧ lenOf (keyed 65264 272 65280 []) % 16 = 0 ∧
    Fits (keyed 65264 272 65280 []) (srcOf (keyed 65264 272 65280 [])) (lenOf (keyed 65264 272 65280 [])) ∧
    Fits (keyed 65264 272 65280 []) (dstOf (keyed 65264 272 65280 [])) (lenOf (keyed 65264 272 65280 []) - 16) ∧
    padCount (cbcPlainOf (keyed 65264 272 65280 [])) ≤ lenOf (keyed 65264 272 65280 []) - 16 :=
  ⟨by decide +kernel, by decide +kernel, by decide +kernel, by decide +kernel, by decide +kernel, by decide +kernel,
    padCount_le _⟩

/-- LEN = 0 at the end of DMEM, and the longest input. -/
theorem witness_BitsWritesOneBytePerBit :
    (Fits (st 65536 0 65536 []) (srcOf (st 65536 0 65536 [])) (lenOf (st 65536 0 65536 [])) ∧
      Fits (st 65536 0 65536 []) (dstOf (st 65536 0 65536 [])) (8 * lenOf (st 65536 0 65536 []))) ∧
    Fits (st 57344 8192 0 []) (srcOf (st 57344 8192 0 [])) (lenOf (st 57344 8192 0 [])) ∧
    Fits (st 57344 8192 0 []) (dstOf (st 57344 8192 0 [])) (8 * lenOf (st 57344 8192 0 [])) := by decide +kernel

theorem witness_To2bitWritesOneBytePerGroup :
    Fits (st 65520 0 65472 []) (srcOf (st 65520 0 65472 [])) 16 ∧ Fits (st 65520 0 65472 []) (dstOf (st 65520 0 65472 [])) 64 := by decide +kernel

theorem witness_From2bitJoinsFourGroups :
    Fits (st 65472 0 65520 []) (srcOf (st 65472 0 65520 [])) 64 ∧ Fits (st 65472 0 65520 []) (dstOf (st 65472 0 65520 [])) 16 := by decide +kernel

theorem witness_Rotl1RotatesEachByte :
    Fits (st 65280 0 65280 []) (srcOf (st 65280 0 65280 [])) 256 ∧ Fits (st 65280 0 65280 []) (dstOf (st 65280 0 65280 [])) 256 := by decide +kernel

theorem witness_XorexcXorsAllButOneByte :
    Fits (st 65520 0 65520 []) (srcOf (st 65520 0 65520 [])) 16 ∧ Fits (st 65520 0 65520 []) (dstOf (st 65520 0 65520 [])) 16 := by decide +kernel

theorem witness_BoxCommandsWriteTheBox :
    (Fits (st 64320 0 65280 []) (srcOf (st 64320 0 65280 [])) 1216 ∧ Fits (st 64320 0 65280 []) (dstOf (st 64320 0 65280 [])) 256) ∧
    Fits (st 65216 0 65472 []) (srcOf (st 65216 0 65472 [])) 320 ∧ Fits (st 65216 0 65472 []) (dstOf (st 65216 0 65472 [])) 64 := by decide +kernel

theorem witness_KeyScheduleCommandsWriteTheirFunction :
    (Fits (st 63488 0 63488 []) (srcOf (st 63488 0 63488 [])) 2048 ∧ Fits (st 63488 0 63488 []) (dstOf (st 63488 0 63488 [])) 2048) ∧
    (Fits (st 63488 0 65520 []) (srcOf (st 63488 0 65520 [])) 2048 ∧ Fits (st 63488 0 65520 []) (dstOf (st 63488 0 65520 [])) 16) ∧
    Fits (st 65520 0 63488 []) (srcOf (st 65520 0 63488 [])) 16 ∧ Fits (st 65520 0 63488 []) (dstOf (st 65520 0 63488 [])) 2048 := by decide +kernel

theorem witness_BusErrorsChangeNothing :
    ((idle [writeTo 0x00D 0]).inbox = .bus ⟨0x00D, true, 0⟩ :: [] ∧ (0x00D#32).toNat % 4 ≠ 0) ∧
    ((idle [readFrom 0x50 0]).inbox = .bus ⟨0x50, false, 0⟩ :: [] ∧ Unmapped (idle []) (0x50#32).toNat) ∧
    Unmapped (idle []) 0x1A80 ∧ Unmapped (idle []) 0xFFFC ∧ Unmapped (idle []) 0x20000 :=
  ⟨⟨rfl, by decide⟩, ⟨rfl, .inl (by decide)⟩, .inr (.inl (by decide)), .inr (.inl (by decide)), .inr (.inr (by decide))⟩

theorem witness_BusyCoreRejectsOperandWrites :
    ((busy 0 [writeTo 0x03C 5]).regs.busy = true ∧ (busy 0 [writeTo 0x03C 5]).inbox = writeTo 0x03C 5 :: [] ∧
      (0x03C#32).toNat ∈ [0x00C, 0x010, 0x014, 0x018, 0x020, 0x030, 0x034, 0x038, 0x03C]) ∧
    (busy 0 [writeTo 0x1FFFF 5]).inbox = writeTo 0x1FFFF 5 :: [] ∧
    0x10000 ≤ (0x1FFFF#32).toNat ∧ (0x1FFFF#32).toNat < 0x10000 + (busy 0 [writeTo 0x1FFFF 5]).params.dmemBytes :=
  ⟨⟨rfl, rfl, by decide⟩, rfl, by decide, by decide⟩

/-- A read R907 leaves unspecified, a misaligned one and an unmapped one. -/
theorem witness_ReadsHaveNoSideEffect :
    ((busy 0 [readFrom 0x1FFFC 0]).inbox = readFrom 0x1FFFC 0 :: [] ∧ (busy 0 [readFrom 0x1FFFC 0]).regs.busy = true ∧
      (0x1FFFC#32).toNat % 4 = 0 ∧ ¬Unmapped (busy 0 [readFrom 0x1FFFC 0]) (0x1FFFC#32).toNat ∧
      HiddenWhileBusy (busy 0 [readFrom 0x1FFFC 0]) (0x1FFFC#32).toNat) ∧
    ((idle [readFrom 0x009 0]).inbox = readFrom 0x009 0 :: [] ∧ (0x009#32).toNat % 4 ≠ 0) ∧
    (idle [readFrom 0x20000 0]).inbox = readFrom 0x20000 0 :: [] ∧
    Unmapped (idle [readFrom 0x20000 0]) (0x20000#32).toNat := by
  refine ⟨⟨rfl, rfl, by decide, ?_, .inr (.inr (by decide))⟩, ⟨rfl, by decide⟩, rfl, .inr (.inr (by decide))⟩
  rintro (h | h | h) <;> revert h <;> decide

theorem witness_ReadOnlyTargetsIgnoreWrites :
    ((idle [writeTo 0x04C 5]).inbox = writeTo 0x04C 5 :: [] ∧ (0x04C#32).toNat % 4 = 0 ∧
      (0x04C#32).toNat ∈ [0x000, 0x01C, 0x040, 0x044, 0x048, 0x04C]) ∧
    ((busy 0 [writeTo 0x1A7C 5]).inbox = writeTo 0x1A7C 5 :: [] ∧ (0x1A7C#32).toNat % 4 = 0 ∧
      0x1000 ≤ (0x1A7C#32).toNat ∧ (0x1A7C#32).toNat < 0x1A80) ∧
    (idle [writeTo 0x008 5]).inbox = writeTo 0x008 5 :: [] ∧ (0x008#32).toNat = 0x008 ∧ (5#32).getLsbD 1 = false := by
  refine ⟨⟨rfl, ?_, ?_⟩, ⟨rfl, ?_, ?_, ?_⟩, rfl, ?_, ?_⟩ <;> decide

theorem witness_RegisterReadsShowTheRegisters :
    (idle [readFrom 0x03C 0]).inbox = readFrom 0x03C 0 :: [] ∧ (idle [readFrom 0x004 0]).inbox = readFrom 0x004 0 :: [] ∧
    (busy 0 [readFrom 0x008 0]).inbox = readFrom 0x008 0 :: [] := ⟨rfl, rfl, rfl⟩

/-- The events of the two clauses, at the last word of DMEM. -/
def dmemRead : List Event := [readFrom (BitVec.ofNat 32 (0x10000 + 65532)) 0]
def dmemWriteRead : List Event :=
  [writeTo (BitVec.ofNat 32 (0x10000 + 65532)) 7, readFrom (BitVec.ofNat 32 (0x10000 + 65532)) 0]

theorem witness_DmemWordsAreStoredInLanes :
    (idle dmemRead).params.legal ∧ (idle dmemRead).regs.busy = false ∧ 65532 % 4 = 0 ∧
    65532 < (idle dmemRead).params.dmemBytes ∧
    (idle dmemRead).inbox = readFrom (BitVec.ofNat 32 (0x10000 + 65532)) 0 :: [] ∧
    (idle dmemWriteRead).params.legal ∧ (idle dmemWriteRead).regs.busy = false ∧
    65532 < (idle dmemWriteRead).params.dmemBytes ∧
    (idle dmemWriteRead).inbox =
      writeTo (BitVec.ofNat 32 (0x10000 + 65532)) 7 :: readFrom (BitVec.ofNat 32 (0x10000 + 65532)) 0 :: [] :=
  ⟨by decide, rfl, by decide, by decide, rfl, by decide, rfl, by decide, rfl⟩

/-- The last word of KEY0..3 and of each window, in a session without a key. -/
theorem witness_WindowsShowOnlyValidState :
    ∀ a ∈ [0x04C#32, 0x17FC, 0x18FC, 0x19FC, 0x1A3C, 0x1A7C],
      (idle [readFrom a 0]).regs.busy = false ∧ (idle [readFrom a 0]).inbox = readFrom a 0 :: [] ∧ a.toNat % 4 = 0 ∧
      ((0x040 ≤ a.toNat ∧ a.toNat < 0x050) ∨ (0x1000 ≤ a.toNat ∧ a.toNat < 0x1A80)) := by
  intro a ha
  refine ⟨rfl, rfl, ?_⟩
  simp only [List.mem_cons, List.not_mem_nil, or_false] at ha
  rcases ha with rfl | rfl | rfl | rfl | rfl | rfl <;> decide

/-- The same with a key and the reverse boxes in force. -/
def shown (a : Word) : State :=
  { idle [readFrom a 0] with session := { Session.reset with keyValid := true, revValid := true } }

theorem witness_WindowsShowOnlyValidState_keyed :
    ∀ a ∈ [0x040#32, 0x1000, 0x1800, 0x1900, 0x1A00, 0x1A40],
      (shown a).session.keyValid = true ∧ (shown a).session.revValid = true ∧ (shown a).regs.busy = false ∧
      (shown a).inbox = readFrom a 0 :: [] ∧ a.toNat % 4 = 0 ∧
      ((0x040 ≤ a.toNat ∧ a.toNat < 0x050) ∨ (0x1000 ≤ a.toNat ∧ a.toNat < 0x1A80)) := by
  intro a ha
  refine ⟨rfl, rfl, rfl, rfl, ?_⟩
  simp only [List.mem_cons, List.not_mem_nil, or_false] at ha
  rcases ha with rfl | rfl | rfl | rfl | rfl | rfl <;> decide

theorem witness_RegisterWritesTakeEffect :
    (∀ a ∈ [0x010#32, 0x014, 0x018, BitVec.ofNat 32 (0x030 + 4 * 3), 0x020],
      (idle [writeTo a 5]).regs.busy = false ∧ (idle [writeTo a 5]).inbox = writeTo a 5 :: []) ∧
    ((busy 0 [writeTo 0x004 1]).inbox = writeTo 0x004 1 :: [] ∧ (1#32).getLsbD 1 = false) ∧
    (idle [writeTo 0x008 2]).inbox = writeTo 0x008 2 :: [] ∧ (2#32).getLsbD 1 = true :=
  ⟨fun _ _ => ⟨rfl, rfl⟩, ⟨rfl, by decide⟩, rfl, by decide⟩

theorem witness_SoftResetForgetsTheSession :
    (idle [writeTo 0x004 3]).regs.busy = false ∧ (3#32).getLsbD 1 = true ∧
    (idle [writeTo 0x004 3]).inbox = writeTo 0x004 3 :: [] := ⟨rfl, by decide, rfl⟩

/-- An undecodable word, a drawing command that passes its checks, one that fails them, and one without a destination. -/
theorem witness_SoftResetAbortsOnlyTheCommand :
    (∀ w ∈ [0x05#32, 0x0C, 0x0A, 0x01], (busy w [writeTo 0x004 2]).regs.busy = true ∧
      (busy w [writeTo 0x004 2]).inbox = writeTo 0x004 2 :: [] ∧ (busy w [writeTo 0x004 2]).pending.word = w) ∧
    (2#32).getLsbD 1 = true ∧ decode 0x05 = .error .badCommand ∧
    (decode 0x0C = .ok .gloria ∧ precheck .gloria (busy 0x0C [writeTo 0x004 2]) = none ∧
      dstBytes .gloria (lenOf (busy 0x0C [writeTo 0x004 2])) = some 16) ∧
    (decode 0x0A = .ok .encblk ∧ precheck .encblk (busy 0x0A [writeTo 0x004 2]) = some .keyNotSet ∧
      .encblk ∉ drawingCommands) ∧
    decode 0x01 = .ok .setkey ∧ dstBytes .setkey (lenOf (busy 0x01 [writeTo 0x004 2])) = none :=
  ⟨fun _ _ => ⟨rfl, rfl, rfl⟩, by decide, by decide, ⟨by decide, by decide, by decide⟩,
    ⟨by decide, by decide, by decide⟩, by decide, rfl⟩

theorem witness_HardResetSetsEveryGivenValue : (busy 0x0C [.rst]).inbox = .rst :: [] := rfl

theorem witness_IrqFollowsDoneAndIe :
    (∃ t, complete (busy 0 []) = .next t) ∧
    (∃ t, step (idle [writeTo 0x004 1]) = .next t ∧ (idle [writeTo 0x004 1]).inbox = writeTo 0x004 1 :: [] ∧
      (1#32).getLsbD 0 = true ∧ (1#32).getLsbD 1 = false) ∧
    (∃ t, step (idle [writeTo 0x008 2]) = .next t ∧ (idle [writeTo 0x008 2]).inbox = writeTo 0x008 2 :: [] ∧
      (2#32).getLsbD 1 = true) ∧
    (∃ t, step (idle [writeTo 0x00C 0]) = .next t ∧ (idle [writeTo 0x00C 0]).inbox = writeTo 0x00C 0 :: [] ∧
      (idle [writeTo 0x00C 0]).regs.busy = false) ∧
    (∃ t, step (idle [writeTo 0x004 0]) = .next t ∧ (idle [writeTo 0x004 0]).inbox = writeTo 0x004 0 :: [] ∧
      (0#32).getLsbD 0 = false) ∧
    (∃ t, step (busy 0 [writeTo 0x004 3]) = .next t ∧ (busy 0 [writeTo 0x004 3]).inbox = writeTo 0x004 3 :: [] ∧
      (3#32).getLsbD 1 = true) ∧
    ∃ t, step (busy 0 [.rst]) = .next t ∧ (busy 0 [.rst]).inbox = .rst :: [] :=
  ⟨⟨_, rfl⟩, ⟨_, rfl, rfl, by decide, by decide⟩, ⟨_, rfl, rfl, by decide⟩, ⟨_, rfl, rfl, rfl⟩, ⟨_, rfl, rfl, by decide⟩, ⟨_, rfl, rfl, by decide⟩,
    ⟨_, rfl, rfl⟩⟩

theorem witness_ResetMeetsTheInvariant :
    ({ dmemBytes := 8224, pboxForm := .scatter } : Params).legal ∧
    ({ dmemBytes := 0x7FFF0000, pboxForm := .gather } : Params).legal := by decide

/-- The invariant's one part that is not a small fact is the permutations; reset's are the identities themselves. -/
theorem witness_EveryStepKeepsTheInvariant :
    Inv (busy 0x0C []) ∧ ∃ t, step (busy 0x0C []) = .next t := by
  refine ⟨⟨by decide, ?_, ?_, ?_, ?_, ?_, ?_, ?_, ?_, ?_, ?_⟩, _, rfl⟩
  · exact ⟨List.Pairwise.nil, fun _ h => nomatch h⟩
  · rfl
  · exact List.length_replicate
  · exact List.Perm.refl _
  · exact List.Perm.refl _
  · intro h; exact absurd h (by decide)
  · intro h; exact absurd h (by decide)
  · intro _; exact ⟨rfl, rfl⟩
  · intro _; rfl
  · decide

theorem witness_KeyValidChangesOnlyByKeyCommandsAndResets :
    (∃ t, step { keyed 0 0 0 [] with inbox := [.rst] } = .next t ∧ (keyed 0 0 0 []).session.keyValid = true ∧
      t.session.keyValid = false) ∧
    (∃ t, step { keyed 0 0 0 [] with inbox := [writeTo 0x004 2] } = .next t ∧ t.session.keyValid = false) ∧
    ∃ t, step (busy 0x01 []) = .next t ∧ (busy 0x01 []).session.keyValid = false ∧ t.session.keyValid = true :=
  ⟨⟨_, rfl, rfl, rfl⟩, ⟨_, rfl, rfl⟩, ⟨_, rfl, rfl, rfl⟩⟩

theorem witness_NothingCancelsACommand :
    (∃ t, step (busy 0 [.coreTurn]) = .next t ∧ (busy 0 [.coreTurn]).regs.busy = true ∧ t.regs.busy = false) ∧
    (∃ t, step (busy 0 [.rst]) = .next t ∧ (busy 0 [.rst]).regs.busy = true ∧ t.regs.busy = false) ∧
    ∃ t, step (busy 0 [writeTo 0x004 2]) = .next t ∧ (busy 0 [writeTo 0x004 2]).regs.busy = true ∧
      t.regs.busy = false :=
  ⟨⟨_, rfl, rfl, rfl⟩, ⟨_, rfl, rfl, rfl⟩, ⟨_, rfl, rfl, rfl⟩⟩

theorem witness_BitOperationLaws : (List.replicate 64 (3 : TwoBit)).length = 64 := by decide

theorem witness_TeaPartyOnlyPermutes :
    (List.replicate (8 * 2) true).length = 8 * 2 ∧ (List.replicate 1216 (0x5A : Byte)).length = 1216 ∧
    (List.replicate 320 (0x5A : Byte)).length = 320 :=
  ⟨List.length_replicate, List.length_replicate, List.length_replicate⟩

/-- Boxes that are not the identity. -/
theorem reversed_sbox_perm : isPermutation 8 identitySBox.reverse := List.reverse_perm _
theorem reversed_pbox_perm : isPermutation 6 identityPBox.reverse := List.reverse_perm _

theorem witness_InverseBoxesInvert :
    isPermutation 8 identitySBox ∧ isPermutation 6 identityPBox ∧
    isPermutation 6 identityPBox.reverse ∧ k01.length = 16 :=
  ⟨List.Perm.refl _, List.Perm.refl _, reversed_pbox_perm, rfl⟩

/-- An engine with two boxes that are not the identity. -/
def reversedEngine : Engine where
  sb := identitySBox.reverse
  pb := identityPBox.reverse
  xa := List.replicate 256 0x35
  xb := List.replicate 256 0xC1

theorem witness_DecBlockUndoesEncBlock :
    isPermutation 8 reversedEngine.sb ∧ isPermutation 6 reversedEngine.pb ∧ k01.length = 16 := by
  simp only [reversedEngine]
  exact ⟨reversed_sbox_perm, reversed_pbox_perm, rfl⟩

theorem witness_ZeroKeyGivesTheIdentityCipher : k01.length = 16 := rfl

theorem witness_PeriodicBuffersStayPeriodic : (List.replicate 256 (0x5A : Byte)).length = 256 :=
  List.length_replicate

theorem witness_ModesRoundTrip :
    isPermutation 8 reversedEngine.sb ∧ isPermutation 6 reversedEngine.pb ∧ (List.replicate 16 (0xFF : Byte)).length = 16 := by
  simp only [reversedEngine]
  exact ⟨reversed_sbox_perm, reversed_pbox_perm, List.length_replicate⟩

end Sys2Proof.Tests
end

section
/-! SUPPORT. How a command can end, what a host transaction keeps, and that every step answers (R802, R809, R810, R12). -/

namespace Sys2Proof.Machine

open Sys2Proof.Claims

/-! ### How a command ends -/

/-- From `s` to `t` a command has computed without ending: session, generator and data memory may have moved, nothing
else (R803, R804). -/
def SameFrame (s t : State) : Prop := Untouched s t ∧ t.regs = s.regs

theorem SameFrame.refl (s : State) : SameFrame s s := ⟨⟨rfl, rfl, rfl, rfl, rfl, rfl⟩, rfl⟩

theorem SameFrame.memWrite {s t : State} (h : SameFrame s t) (a : Nat) (v : Bytes) :
    SameFrame s (t.memWrite a v) := h

theorem SameFrame.deriveReverse {s t : State} (h : SameFrame s t) : SameFrame s (deriveReverse t) := h

theorem SameFrame.afterGloria {s t : State} (h : SameFrame s t) : SameFrame s (afterGloria t) := h

theorem SameFrame.commitKey {s t : State} (h : SameFrame s t) (k : Bytes) : SameFrame s (commitKey k t) := h

/-- How a command begun in `s` can end: an error completion of `s` itself (R804), or a success (R803) from a state
with the frame of `s`. -/
inductive Completion (s : State) : Result → Prop where
  | error (c : StatusCode) : Completion s (fail c s)
  | success (n : Nat) {t : State} (h : SameFrame s t) : Completion s (finish n t)

theorem SameFrame.finishWrite {s t : State} (h : SameFrame s t) (v : Bytes) : Completion s (finishWrite v t) :=
  .success v.length (h.memWrite t.pending.dst.toNat v)

theorem Completion.of_guarded {i : Instr} {s : State} {effect : State → Result} (h : Completion s (effect s)) :
    Completion s (guarded i s effect) := by
  cases hp : precheck i s with
  | some c => exact guarded_error effect hp ▸ .error c
  | none => rwa [guarded_pass effect hp]

theorem Completion.of_finishDecrypt (plain : Option Bytes) (s : State) : Completion s (finishDecrypt plain s) := by
  cases plain with
  | none => exact .error .padRange
  | some p => exact (SameFrame.refl s).deriveReverse.finishWrite p

/-- Every command, grouped by what it moves beside its output: nothing, the reverse boxes, the generator or the key. -/
theorem exec_completion (i : Instr) (s : State) : Completion s (exec i s) := by
  have same := SameFrame.refl s
  cases i with
  | nop =>
    simp only [exec, execNop]
    exact .of_guarded (.success 0 same)
  | encryptEcb | encblk | boxgens | boxgenp | mix | fold | kiss | kiss2 | bits | to2bit | from2bit | rotl1
  | xorexc val idx =>
    simp only [exec, execEncryptEcb, execEncblk, execBoxgens, execBoxgenp, execMix, execFold, execKiss, execKiss2,
      execBits, execTo2bit, execFrom2bit, execRotl1, execXorexc]
    exact .of_guarded (same.finishWrite _)
  | decblk =>
    simp only [exec, execDecblk]
    exact .of_guarded (same.deriveReverse.finishWrite _)
  | decryptEcb | decryptCbc =>
    simp only [exec, execDecryptEcb, execDecryptCbc]
    exact .of_guarded (.of_finishDecrypt _ s)
  | gloria | encryptCbc =>
    simp only [exec, execGloria, execEncryptCbc]
    exact .of_guarded (same.afterGloria.finishWrite _)
  | setkey | setkeystr =>
    simp only [exec, execSetkey, execSetkeystr]
    exact .of_guarded (.success 0 (same.commitKey _))
  | genkey =>
    simp only [exec, execGenkey]
    exact .of_guarded (.success 0 (same.afterGloria.commitKey _))
  | setkeyhex =>
    simp only [exec, execSetkeyhex]
    refine .of_guarded ?_
    split
    · exact .success 0 (same.commitKey _)
    · exact .error .invalidKeyFormat

theorem complete_completion (s : State) : Completion s (complete s) := by
  obtain ⟨i, -, h⟩ | ⟨e, -, h⟩ := complete_cases s
  · rw [h]; exact exec_completion i s
  · rw [h]; exact .error (decodeErrorCode e)

/-- Either ending answers a next state and leaves alone what no command touches. -/
theorem Completion.answers_untouched {s : State} {r : Result} (h : Completion s r) :
    ∃ t, r = .next t ∧ Untouched s t := by
  cases h with
  | error c => exact ⟨_, rfl, rfl, rfl, rfl, rfl, rfl, rfl⟩
  | success n same =>
    obtain ⟨huntouched, -⟩ := same
    exact ⟨_, rfl, huntouched⟩

theorem coreTurn_answers_untouched (s : State) : ∃ t, coreTurn s = .next t ∧ Untouched s t := by
  obtain ⟨-, h⟩ | ⟨-, h⟩ := coreTurn_cases s
  · rw [h]; exact (complete_completion s).answers_untouched
  · exact ⟨s, h, rfl, rfl, rfl, rfl, rfl, rfl⟩

/-! ### A host transaction keeps the parameters -/

@[simp] theorem abortEffects_params (s : State) : (abortEffects s).params = s.params := by
  unfold abortEffects
  split <;> simp

@[simp] theorem softReset_params (s : State) : (softReset s).params = s.params := by
  unfold softReset
  split <;> simp

@[simp] theorem writeCtrl_params (v : Word) (s : State) : (writeCtrl v s).params = s.params := by
  unfold writeCtrl
  split <;> simp

@[simp] theorem writeStatus_params (v : Word) (s : State) : (writeStatus v s).params = s.params := by
  unfold writeStatus
  split <;> rfl

@[simp] theorem writeTarget_params (v : Word) (s : State) (tgt : Target) :
    (writeTarget v s tgt).params = s.params := by
  cases tgt with
  | ctrl => exact writeCtrl_params v s
  | status => exact writeStatus_params v s
  | id | cmd | src | len | dst | outlen | prngSeed | keyIn w | key w | ks off | sbox off | rsbox off | pbox off
  | rpbox off | dmem off | unmapped => rfl

@[simp] theorem busAccess_params (t : Txn) (s : State) : (busAccess t s).params = s.params := by
  obtain ⟨-, h⟩ | ⟨-, -, ⟨-, -, -, h⟩ | ⟨-, -, h⟩ | ⟨-, -, -, h⟩ | ⟨-, -, h⟩⟩ := busAccess_cases t s <;>
    simp [h, busError]

/-! ### Every step answers -/

theorem step_answers_params (s : State) : ∃ t, step s = .next t ∧ t.params = s.params := by
  obtain ⟨-, h⟩ | ⟨es, -, h⟩ | ⟨t, es, -, h⟩ | ⟨es, -, h⟩ := step_cases s
  · obtain ⟨t, ht, hparams, -⟩ := coreTurn_answers_untouched s
    exact ⟨t, h.trans ht, hparams⟩
  · obtain ⟨t, ht, hparams, -⟩ := coreTurn_answers_untouched { s with inbox := es }
    exact ⟨t, h.trans ht, hparams⟩
  · exact ⟨_, h, busAccess_params t _⟩
  · exact ⟨_, h, hardReset_params _⟩

/-- Settles O11: every kind of event answers, and its answer keeps the parameters. -/
theorem noStepStops : Obligations.NoStepStops := by
  intro s
  obtain ⟨t, ht, hparams⟩ := step_answers_params s
  refine ⟨⟨t, ht⟩, fun t' ht' => ?_⟩
  obtain rfl : t = t' := by simpa [ht] using ht'
  exact hparams

end Sys2Proof.Machine
end

section
/-! SUPPORT. The invariant right after a reset (R900, R902). -/

namespace Sys2Proof.Machine

theorem identitySBox_isPermutation : isPermutation 8 identitySBox := List.Perm.refl _

theorem identityPBox_isPermutation : isPermutation 6 identityPBox := List.Perm.refl _

/-- What all resets share, power-up, the pulse on `rst` and SRST: the registers are at their reset values and the
session is forgotten. With legal parameters and a canonical memory that meets the invariant. -/
theorem inv_of_forgotten {s : State} {ss : Session} (hparams : s.params.legal)
    (hmem : Memory.wf s.params.dmemBytes s.dmem) (hregs : s.regs = Registers.reset)
    (hsession : s.session = forgetSession ss) : Inv s where
  params := hparams
  memory := hmem
  keyLength := hsession ▸ List.length_replicate
  ksLength := hsession ▸ List.length_replicate
  sboxPerm := hsession ▸ identitySBox_isPermutation
  pboxPerm := hsession ▸ identityPBox_isPermutation
  derived := hsession ▸ nofun
  reverse := hsession ▸ nofun
  busyFlags := hregs ▸ nofun
  snapshot := hregs ▸ nofun
  outlen := hregs ▸ Nat.zero_le _

theorem inv_resetOf {p : Params} (hp : p.legal) : Inv (State.resetOf p) :=
  inv_of_forgotten (ss := Session.reset) hp (reset_memory_wf _ p) rfl rfl

theorem default_params_legal : Params.default.legal := by decide

/-- Settles O50: the default parameters are legal ones. -/
theorem resetMeetsTheInvariant : Obligations.ResetMeetsTheInvariant :=
  ⟨fun _ hp => inv_resetOf hp, inv_resetOf default_params_legal⟩

end Sys2Proof.Machine
end

section
/-! SUPPORT. The lengths of the outputs of ENCRYPT and DECRYPT (R653 to R657). -/

namespace Sys2Proof.Machine

theorem sessionEnc_length {s : State} {b : Bytes} (hp : s.session.pbox.length = 64) (hb : b.length = 16) :
    (sessionEnc s b).length = 16 := encBlock_length _ s.engine b hp hb

theorem sessionDec_length {s : State} {b : Bytes} (hp : s.session.pbox.length = 64) (hb : b.length = 16) :
    (sessionDec s b).length = 16 := decBlock_length _ _ _ _ b (by simpa using hp) hb

@[simp] theorem blocksOf_length (d : Bytes) : (blocksOf d).length = d.length / 16 := by simp [blocksOf]

theorem mem_blocksOf_length {d x : Bytes} (hx : x ∈ blocksOf d) : x.length = 16 :=
  mem_blocks_length (Nat.mul_div_le d.length 16) hx

theorem ecbEncrypt_length {enc : Bytes → Bytes} (henc : ∀ b : Bytes, b.length = 16 → (enc b).length = 16) (d : Bytes) :
    (ecbEncrypt enc d).length = d.length + 16 - d.length % 16 := by
  rw [ecbEncrypt, flatMap_length_16 _ _ fun x hx => henc x (mem_blocksOf_length hx), blocksOf_length, pad_length]
  omega

theorem cbcEncrypt_length {enc : Bytes → Bytes} (henc : ∀ b : Bytes, b.length = 16 → (enc b).length = 16) (d : Bytes)
    {iv : Bytes} (hiv : iv.length = 16) : (cbcEncrypt enc d iv).length = d.length + 16 - d.length % 16 + 16 := by
  rw [cbcEncrypt, List.length_append, hiv, cbcChain_length enc henc _ iv hiv fun x hx => mem_blocksOf_length hx,
    blocksOf_length, pad_length]
  omega

theorem ecbDecrypt_length_le {dec : Bytes → Bytes} (hdec : ∀ b : Bytes, b.length = 16 → (dec b).length = 16)
    {y p : Bytes} (h : ecbDecrypt dec y = some p) : p.length ≤ y.length := by
  have hle := unpad_length h
  rw [flatMap_length_16 _ _ fun x hx => hdec x (mem_blocksOf_length hx), blocksOf_length] at hle
  omega

theorem cbcPlain_length {dec : Bytes → Bytes} (hdec : ∀ b : Bytes, b.length = 16 → (dec b).length = 16) (y : Bytes) :
    (cbcPlain dec y).length = 16 * (y.length / 16 - 1) := by
  rw [cbcPlain, flatMap_length_16, List.length_range]
  intro m hm
  have hm : m < y.length / 16 - 1 := List.mem_range.1 hm
  rw [xorBytes_length, hdec _ (block_length y (m + 1) (by omega)), block_length y m (by omega), Nat.min_self]

theorem cbcDecrypt_length_le {dec : Bytes → Bytes} (hdec : ∀ b : Bytes, b.length = 16 → (dec b).length = 16)
    {y p : Bytes} (h : cbcDecrypt dec y = some p) : p.length ≤ y.length - 16 := by
  have hle := unpad_length h
  rw [cbcPlain_length hdec] at hle
  omega

@[simp] theorem srcRead_length (n : Nat) (s : State) : (srcRead n s).length = n := memRead_length _ _ n

@[simp] theorem srcReadLen_length (s : State) : (srcReadLen s).length = s.pending.len.toNat := srcRead_length _ s

theorem gloriaBlock_length (s : State) : (gloriaBlock s).length = 16 := gloria_length _ _ _

theorem keyInBytes_length (k : Vector Word 4) : (keyInBytes k).length = 16 := by
  simp [keyInBytes, List.length_flatMap]

end Sys2Proof.Machine
end

section
/-! SUPPORT. How each command can end, with what it did to session, generator and memory (R803, R804). -/

namespace Sys2Proof.Machine

open Sys2Proof.Claims

theorem lengthError_ne_ok (i : Instr) (len : Nat) : lengthError i len ≠ some .ok := by
  cases i <;> simp [lengthError]

theorem precheck_ne_ok (i : Instr) (s : State) : precheck i s ≠ some .ok := by
  unfold precheck
  cases hlen : lengthError i s.pending.len.toNat with
  | some c =>
    have hc : c ≠ .ok := fun hc => lengthError_ne_ok i _ (hc ▸ hlen)
    split_ifs <;> simp [hc]
  | none => split_ifs <;> simp

/-- The state in which command `i`, begun in `s`, can end: after an error, or by its kind after NOP, a command that
writes at DST and may draw, a decrypt or a key command. The output fits in DMEM as far as the P-box has the length that
`Inv` gives. -/
inductive Ending (i : Instr) (s : State) : State → Prop where
  | error {c : StatusCode} (hc : c ≠ .ok) : Ending i s (raiseError c s)
  | nothing (hi : i = .nop) : Ending i s (completeOk 0 s)
  | output (v : Bytes) (g : PrngState) (hkey : i ∉ keyCommands) (hdec : i ∉ decryptCommands)
      (hfits : s.session.pbox.length = 64 → Fits s (dstOf s) v.length) :
      Ending i s (completeOk v.length ({ s with prng := g }.memWrite (dstOf s) v))
  | plaintext (v : Bytes) (hdec : i ∈ decryptCommands) (hset : s.session.keyValid = true)
      (hfits : s.session.pbox.length = 64 → Fits s (dstOf s) v.length) :
      Ending i s (completeOk v.length ((deriveReverse s).memWrite (dstOf s) v))
  | key (k : Bytes) (g : PrngState) (hkey : i ∈ keyCommands) (hk : k.length = 16) :
      Ending i s (completeOk 0 (commitKey k { s with prng := g }))

/-- The outcome is one of the command's endings. -/
def Ends (i : Instr) (s : State) (r : Result) : Prop := ∃ t, r = .next t ∧ Ending i s t

theorem Ending.ends {i : Instr} {s t : State} (h : Ending i s t) : Ends i s (.next t) := ⟨t, rfl, h⟩

theorem Ends.of_guarded {i : Instr} {s : State} {effect : State → Result}
    (h : precheck i s = none → Ends i s (effect s)) : Ends i s (guarded i s effect) := by
  cases hp : precheck i s with
  | some c => exact guarded_error effect hp ▸ (Ending.error fun hc => precheck_ne_ok i s (hc ▸ hp)).ends
  | none => exact guarded_pass effect hp ▸ h hp

/-- No output is longer than the byte count that was checked at DST. -/
theorem fits_of_length_le {i : Instr} {s : State} {n : Nat} {v : Bytes} (hpass : precheck i s = none)
    (hn : dstBytes i (lenOf s) = some n) (hv : v.length ≤ n) : Fits s (dstOf s) v.length :=
  (Nat.add_le_add_left hv _).trans (dst_fits_of_precheck hpass hn)

theorem keyValid_of_precheck {i : Instr} {s : State} (hpass : precheck i s = none) (hi : needsKey i = true) :
    s.session.keyValid = true := (precheck_eq_none.1 hpass).1 hi

/-- A decrypt ends with PAD_RANGE or writes plaintext no longer than the range checked at DST. -/
theorem Ends.of_finishDecrypt {i : Instr} {s : State} {plain : Option Bytes} {n : Nat} (hpass : precheck i s = none)
    (hdec : i ∈ decryptCommands) (hset : s.session.keyValid = true) (hn : dstBytes i (lenOf s) = some n)
    (hv : s.session.pbox.length = 64 → ∀ p, plain = some p → p.length ≤ n) : Ends i s (finishDecrypt plain s) := by
  cases plain with
  | none => exact (Ending.error (by decide)).ends
  | some p => exact (Ending.plaintext p hdec hset fun hp => fits_of_length_le hpass hn (hv hp p rfl)).ends

/-- A command that only writes what it computed, and may draw, ends well once its output is no longer than what was
checked at DST. -/
theorem Ends.of_output {i : Instr} {s : State} {v : State → Bytes} {n : Nat} (g : State → PrngState)
    (hkey : i ∉ keyCommands) (hdec : i ∉ decryptCommands) (hn : dstBytes i (lenOf s) = some n)
    (hv : s.session.pbox.length = 64 → (v s).length ≤ n) :
    Ends i s (guarded i s fun s => finishWrite (v s) { s with prng := g s }) :=
  .of_guarded fun hpass => (Ending.output _ _ hkey hdec fun hp => fits_of_length_le hpass hn (hv hp)).ends

theorem exec_ends (i : Instr) (s : State) : Ends i s (exec i s) := by
  cases i with
  | nop => exact .of_guarded fun _ => (Ending.nothing rfl).ends
  | setkey =>
    simp only [exec, execSetkey]
    exact .of_guarded fun _ => (Ending.key _ s.prng (by decide) (keyInBytes_length _)).ends
  | setkeystr =>
    simp only [exec, execSetkeystr]
    exact .of_guarded fun _ => (Ending.key _ s.prng (by decide) (srcRead_length 16 s)).ends
  | setkeyhex =>
    simp only [exec, execSetkeyhex]
    refine .of_guarded fun _ => ?_
    split
    · exact (Ending.key _ s.prng (by decide) (hexKey_length _)).ends
    · exact (Ending.error (by decide)).ends
  | genkey =>
    simp only [exec, execGenkey]
    exact .of_guarded fun _ => (Ending.key _ _ (by decide) (gloriaBlock_length s)).ends
  | decryptEcb =>
    simp only [exec, execDecryptEcb]
    refine .of_guarded fun h => .of_finishDecrypt h (by decide) (keyValid_of_precheck h rfl) rfl fun hp p he => ?_
    simpa using ecbDecrypt_length_le (fun b hb => sessionDec_length hp hb) he
  | decryptCbc =>
    simp only [exec, execDecryptCbc]
    refine .of_guarded fun h => .of_finishDecrypt h (by decide) (keyValid_of_precheck h rfl) rfl fun hp p he => ?_
    simpa using cbcDecrypt_length_le (fun b hb => sessionDec_length hp hb) he
  | decblk =>
    simp only [exec, execDecblk]
    refine .of_guarded fun h => (Ending.plaintext _ (by decide) (keyValid_of_precheck h rfl) fun hp =>
      fits_of_length_le h rfl ?_).ends
    rw [sessionDec_length hp (srcRead_length 16 s)]
  | gloria =>
    simp only [exec, execGloria]
    exact .of_output _ (by decide) (by decide) rfl fun _ => (gloriaBlock_length s).le
  | encryptCbc =>
    simp only [exec, execEncryptCbc]
    refine .of_output _ (by decide) (by decide) rfl fun hp => ?_
    rw [cbcEncrypt_length (fun b hb => sessionEnc_length hp hb) _ (gloriaBlock_length s), srcReadLen_length]
  | encryptEcb =>
    simp only [exec, execEncryptEcb]
    refine .of_output State.prng (by decide) (by decide) rfl fun hp => ?_
    rw [ecbEncrypt_length fun b hb => sessionEnc_length hp hb, srcReadLen_length]
  | encblk =>
    simp only [exec, execEncblk]
    refine .of_output State.prng (by decide) (by decide) rfl fun hp => ?_
    rw [sessionEnc_length hp (srcRead_length 16 s)]
  | boxgens | boxgenp | mix | fold | kiss | kiss2 | bits | to2bit | from2bit | rotl1 | xorexc val idx =>
    simp only [exec, execBoxgens, execBoxgenp, execMix, execFold, execKiss, execKiss2, execBits, execTo2bit,
      execFrom2bit, execRotl1, execXorexc]
    refine .of_output State.prng (by simp [keyCommands]) (by simp [decryptCommands]) rfl fun _ => ?_
    simp [genSBox_length, genPBox_length, mixPass_length, foldBlocks_length, stageA_length, stageB_length,
      twoBitToBytes_length]

theorem Ending.of_exec {i : Instr} {s t : State} (h : exec i s = .next t) : Ending i s t := by
  obtain ⟨u, hu, ending⟩ := exec_ends i s
  rw [h] at hu
  cases hu
  exact ending

end Sys2Proof.Machine
end

section
/-! SUPPORT. TeaParty only permutes, so the boxes it makes are permutations (R450 to R454). -/

namespace Sys2Proof.Machine

theorem buckets_perm {α : Type} {seq : List α} {bits : List Bool} (h : bits.length = seq.length) :
    (bucket false seq bits ++ bucket true seq bits).Perm seq := by
  induction seq generalizing bits with
  | nil => simp [bucket]
  | cons x xs ih =>
    match bits with
    | false :: ts => simpa [bucket] using ih (by simpa using h)
    | true :: ts =>
      simp only [bucket, Bool.true_eq_false, if_false, if_true]
      exact List.perm_middle.trans ((ih (by simpa using h)).cons x)

theorem teaRound_perm {α : Type} {seq : List α} {bits : List Bool} (h : bits.length = seq.length) :
    (teaRound seq bits).Perm seq := buckets_perm h

theorem teaParty_perm {α : Type} {rounds : Nat} {seq : List α} {stream : List Bool}
    (h : stream.length = seq.length * rounds) : (teaParty rounds seq stream).Perm seq := by
  induction rounds generalizing seq stream with
  | zero => exact .refl _
  | succ r ih =>
    rw [Nat.mul_succ] at h
    have round : (teaRound seq (stream.take seq.length)).Perm seq := teaRound_perm (by simp [h])
    exact (ih (by simp [h, round.length_eq])).trans round

theorem genSBox_isPermutation {seed : Bytes} (h : seed.length = 1216) : isPermutation 8 (genSBox seed) :=
  teaParty_perm (by simp [h])

theorem genPBox_isPermutation {seed : Bytes} (h : seed.length = 320) : isPermutation 6 (genPBox seed) :=
  teaParty_perm (by simp [h])

theorem derive_sb_isPermutation {f : PBoxForm} {k : Bytes} (hk : k.length = 16) : isPermutation 8 (derive f k).sb := by
  rw [derive_sb]
  exact genSBox_isPermutation (by simp [stageB_length f k hk])

theorem derive_pb_isPermutation {f : PBoxForm} {k : Bytes} (hk : k.length = 16) : isPermutation 6 (derive f k).pb := by
  rw [derive_pb]
  exact genPBox_isPermutation (by simp [stageB_length f k hk])

theorem pbox_length_of_isPermutation {p : PBox} (h : isPermutation 6 p) : p.length = 64 := by simpa using h.length_eq

end Sys2Proof.Machine
end

section
/-! SUPPORT. What each move of the core keeps of the invariant (R131 to R137, R803). -/

namespace Sys2Proof.Machine

open Sys2Proof.Claims

variable {s : State}

/-- The invariant speaks of parameters, registers, session, snapshot and memory only. -/
theorem Inv.of_core_eq (h : Inv s) {t : State} (hparams : t.params = s.params) (hregs : t.regs = s.regs)
    (hsession : t.session = s.session) (hpending : t.pending = s.pending) (hdmem : t.dmem = s.dmem) : Inv t := by
  obtain ⟨params, regs, session, prng, pending, dmem, epoch, draws, inbox, replies⟩ := t
  subst hparams hregs hsession hpending hdmem
  exact ⟨h.params, h.memory, h.keyLength, h.ksLength, h.sboxPerm, h.pboxPerm, h.derived, h.reverse, h.busyFlags,
    h.snapshot, h.outlen⟩

theorem Inv.withPrng (h : Inv s) (g : PrngState) : Inv { s with prng := g } := h.of_core_eq rfl rfl rfl rfl rfl

theorem Inv.withInbox (h : Inv s) (es : List Event) : Inv { s with inbox := es } := h.of_core_eq rfl rfl rfl rfl rfl

theorem Inv.answer (h : Inv s) (r : Reply) : Inv (answer r s) := h.of_core_eq rfl rfl rfl rfl rfl

/-- A store that is inside DMEM, or that stores nothing. -/
theorem Inv.memWrite (h : Inv s) {a : Nat} {v : Bytes} (hv : v = [] ∨ Fits s a v.length) : Inv (s.memWrite a v) :=
  { h with memory := Memory.store_wf h.memory hv }

/-- The registers of an idle core matter to the invariant only by OUTLEN. -/
theorem Inv.withIdleRegs (h : Inv s) {r : Registers} (hidle : r.busy = false)
    (hout : r.outlen.toNat ≤ s.params.dmemBytes) : Inv { s with regs := r } :=
  { h with
    busyFlags := fun hbusy => absurd hbusy (by simp [hidle])
    snapshot := fun hbusy => absurd hbusy (by simp [hidle])
    outlen := hout }

theorem Inv.completeOk (h : Inv s) {n : Nat} (hn : n ≤ s.params.dmemBytes) : Inv (completeOk n s) :=
  h.withIdleRegs rfl ((Nat.mod_le n (2 ^ 32)).trans hn)

theorem Inv.raiseError (h : Inv s) (c : StatusCode) : Inv (raiseError c s) := h.withIdleRegs rfl (Nat.zero_le _)

theorem Inv.deriveReverse (h : Inv s) (hset : s.session.keyValid = true) : Inv (deriveReverse s) :=
  { h with reverse := fun _ => ⟨hset, rfl, rfl⟩ }

theorem Inv.commitKey (h : Inv s) {k : Bytes} (hk : k.length = 16) : Inv (commitKey k s) :=
  { h with
    keyLength := hk
    ksLength := by simpa [commitSession] using stageB_length _ k hk
    sboxPerm := derive_sb_isPermutation hk
    pboxPerm := derive_pb_isPermutation hk
    derived := fun _ => rfl
    reverse := nofun }

theorem Inv.pbox_length (h : Inv s) : s.session.pbox.length = 64 := pbox_length_of_isPermutation h.pboxPerm

/-- A success that wrote inside DMEM. -/
theorem Inv.completeOk_memWrite (h : Inv s) {v : Bytes} {a : Nat} (hv : Fits s a v.length) :
    Inv (Machine.completeOk v.length (s.memWrite a v)) :=
  (h.memWrite (.inr hv)).completeOk ((Nat.le_add_left _ _).trans hv)

theorem Inv.exec (h : Inv s) {i : Instr} {t : State} (ht : exec i s = .next t) : Inv t := by
  cases Ending.of_exec ht with
  | error hc => exact h.raiseError _
  | nothing hi => exact h.completeOk (Nat.zero_le _)
  | output v g hkey hdec hfits => exact (h.withPrng g).completeOk_memWrite (hfits h.pbox_length)
  | plaintext v hdec hset hfits => exact (h.deriveReverse hset).completeOk_memWrite (hfits h.pbox_length)
  | key k g hkey hk => exact ((h.withPrng g).commitKey hk).completeOk (Nat.zero_le _)

theorem Inv.coreTurn (h : Inv s) {t : State} (ht : coreTurn s = .next t) : Inv t := by
  obtain ⟨-, hc⟩ | ⟨-, hc⟩ := coreTurn_cases s
  · obtain ⟨i, -, he⟩ | ⟨e, -, he⟩ := complete_cases s
    · exact h.exec (he ▸ hc ▸ ht)
    · rw [hc, he] at ht
      cases ht
      exact h.raiseError _
  · rw [hc] at ht
    cases ht
    exact h

end Sys2Proof.Machine
end

section
/-! SUPPORT. The address map (R204), and what a host transaction keeps of the invariant (R206, R902, R903, R906). -/

namespace Sys2Proof.Machine

open Sys2Proof.Claims

theorem mem_of_lookup_eq_some {α β : Type} [BEq α] [LawfulBEq α] {l : List (α × β)} {a : α} {b : β}
    (h : l.lookup a = some b) : (a, b) ∈ l := by
  obtain ⟨l₁, l₂, rfl, -⟩ := List.lookup_eq_some_iff.1 h
  simp

/-- The register page: what an offset below 0x1000 reaches (R110 to R121). -/
theorem target_of_lt {size a : Nat} (h : a < 0x1000) : target size a = (registerMap.lookup a).getD .unmapped := by
  rw [target, if_pos h]

/-- Only the register page reaches a register. -/
theorem target_cases (size a : Nat) :
    (a, target size a) ∈ registerMap ∨
    (0x1000 ≤ a ∧ a < 0x1800 ∧ target size a = .ks (a - 0x1000)) ∨
    (0x1800 ≤ a ∧ a < 0x1900 ∧ target size a = .sbox (a - 0x1800)) ∨
    (0x1900 ≤ a ∧ a < 0x1A00 ∧ target size a = .rsbox (a - 0x1900)) ∨
    (0x1A00 ≤ a ∧ a < 0x1A40 ∧ target size a = .pbox (a - 0x1A00)) ∨
    (0x1A40 ≤ a ∧ a < 0x1A80 ∧ target size a = .rpbox (a - 0x1A40)) ∨
    (0x10000 ≤ a ∧ a < 0x10000 + size ∧ target size a = .dmem (a - 0x10000)) ∨
    target size a = .unmapped := by
  by_cases hreg : a < 0x1000
  · rw [target_of_lt hreg]
    cases hl : registerMap.lookup a with
    | none => simp
    | some tgt => exact .inl (mem_of_lookup_eq_some hl)
  · rw [target, if_neg hreg]
    split_ifs <;> simp <;> omega

/-- Only offset 0x004 reaches CTRL. -/
theorem eq_of_target_eq_ctrl {size a : Nat} (h : target size a = .ctrl) : a = 0x004 := by
  have hcases := target_cases size a
  rw [h] at hcases
  simpa [registerMap] using hcases

/-- An aligned word of DMEM lies inside it: the size is a multiple of 4 (R12, R201). -/
theorem fits_of_target_eq_dmem {size a off : Nat} (hsize : size % 4 = 0) (ha : a % 4 = 0)
    (h : target size a = .dmem off) : off + 4 ≤ size := by
  have hcases := target_cases size a
  rw [h] at hcases
  have hoff : 0x10000 ≤ a ∧ a < 0x10000 + size ∧ off = a - 0x10000 := by simpa [registerMap] using hcases
  omega

theorem aligned_iff (a : Word) : aligned a = true ↔ a.toNat % 4 = 0 := by simp [aligned]

variable {s : State}

/-- What an abort may have written is inside DMEM, where it is anything at all (R903). -/
theorem abortedRun_fits (i : Instr) (s : State) :
    abortedRun s.freeDraws (dstOf s) (abortedBytes i s) = [] ∨
      Fits s (dstOf s) (abortedRun s.freeDraws (dstOf s) (abortedBytes i s)).length := by
  rw [abortedRun, List.length_map, List.length_range, abortedBytes]
  cases hp : precheck i s with
  | some c => simp
  | none =>
    cases hn : dstBytes i (lenOf s) with
    | none => simp
    | some n => exact .inr (dst_fits_of_precheck hp hn)

theorem Inv.abortEffects (h : Inv s) : Inv (abortEffects s) := by
  unfold Machine.abortEffects
  cases decode s.pending.word with
  | error e => exact h
  | ok i => exact (h.memWrite (abortedRun_fits i s)).of_core_eq rfl rfl rfl rfl rfl

theorem Inv.clearForSoftReset (h : Inv s) : Inv (clearForSoftReset s) :=
  inv_of_forgotten h.params h.memory rfl rfl

theorem Inv.softReset (h : Inv s) : Inv (softReset s) := by
  unfold Machine.softReset
  split
  · exact h.abortEffects.clearForSoftReset
  · exact h.clearForSoftReset

theorem Inv.hardReset (h : Inv s) : Inv (hardReset s) :=
  (inv_resetOf h.params).of_core_eq rfl rfl rfl rfl rfl

theorem Inv.writeCtrl (h : Inv s) (v : Word) : Inv (writeCtrl v s) := by
  unfold Machine.writeCtrl
  split
  · exact h.softReset
  · exact { h with }

theorem Inv.writeStatus (h : Inv s) (v : Word) : Inv (writeStatus v s) := by
  unfold Machine.writeStatus
  split
  · exact { h with busyFlags := fun hbusy => ⟨rfl, (h.busyFlags hbusy).2⟩ }
  · exact h

theorem Inv.accept (h : Inv s) (w : Word) : Inv (accept w s) :=
  { h with busyFlags := fun _ => ⟨rfl, rfl⟩, snapshot := fun _ => rfl }

theorem Inv.writeTarget (h : Inv s) {tgt : Target} (v : Word)
    (htaken : s.regs.busy = false ∨ tgt.rejectedWhileBusy = false)
    (hdmem : ∀ off, tgt = .dmem off → Fits s off 4) : Inv (writeTarget v s tgt) := by
  cases tgt with
  | ctrl => exact h.writeCtrl v
  | status => exact h.writeStatus v
  | cmd => exact h.accept v
  | src | len | dst | keyIn w => exact h.withIdleRegs (htaken.resolve_right (by simp [Target.rejectedWhileBusy])) h.outlen
  | prngSeed => exact h.withPrng _
  | dmem off => exact h.memWrite (.inr (hdmem off rfl))
  | id | outlen | key w | ks off | sbox off | rsbox off | pbox off | rpbox off | unmapped => exact h

theorem Inv.busAccess (h : Inv s) (t : Txn) : Inv (busAccess t s) := by
  obtain ⟨-, he⟩ | ⟨ha, -, ⟨-, -, -, he⟩ | ⟨-, htaken, he⟩ | ⟨-, -, -, he⟩ | ⟨-, -, he⟩⟩ := busAccess_cases t s
  · rw [he]; exact h.answer _
  · rw [he]; exact h.answer _
  · rw [he]
    exact (h.writeTarget _ htaken fun off =>
      fits_of_target_eq_dmem h.params.1 ((aligned_iff _).1 ha)).answer _
  · rw [he]; exact h.of_core_eq rfl rfl rfl rfl rfl
  · rw [he]; exact h.answer _

end Sys2Proof.Machine
end

section
/-! SUPPORT. Whose move a step is (R100), and the invariant over it (R131 to R137, R208, R216, R803, R906). -/

namespace Sys2Proof.Machine

open Sys2Proof.Claims

/-- A step on the core's turn is the core's turn, with the event taken off the schedule (R100). -/
theorem step_of_coreMovesNext {s : State} {rest : List Event} (h : CoreMovesNext s rest) :
    step s = coreTurn { s with inbox := rest } := by
  obtain hturn | ⟨hnil, rfl⟩ := h
  · simp [step, advance, hturn, perform]
  · have hsame : { s with inbox := [] } = s := by rw [← hnil]
    simp [step, advance, hnil, hsame]

/-- A step is the core's turn, a host transaction or a pulse on `rst`. -/
theorem step_agents (s : State) :
    (∃ rest, CoreMovesNext s rest ∧ step s = coreTurn { s with inbox := rest }) ∨
    (∃ txn rest, s.inbox = .bus txn :: rest ∧ step s = .next (busAccess txn { s with inbox := rest })) ∨
    ∃ rest, s.inbox = .rst :: rest ∧ step s = .next (hardReset { s with inbox := rest }) := by
  obtain ⟨hnil, -⟩ | ⟨es, hturn, -⟩ | hbus | hrst := step_cases s
  · exact .inl ⟨[], .inr ⟨hnil, rfl⟩, step_of_coreMovesNext (.inr ⟨hnil, rfl⟩)⟩
  · exact .inl ⟨es, .inl hturn, step_of_coreMovesNext (.inl hturn)⟩
  · exact .inr (.inl hbus)
  · exact .inr (.inr hrst)

theorem Inv.step {s t : State} (h : Inv s) (ht : step s = .next t) : Inv t := by
  obtain ⟨rest, -, he⟩ | ⟨txn, rest, -, he⟩ | ⟨rest, -, he⟩ := step_agents s
  · exact (h.withInbox rest).coreTurn (he ▸ ht)
  · rw [he] at ht
    cases ht
    exact (h.withInbox rest).busAccess txn
  · rw [he] at ht
    cases ht
    exact (h.withInbox rest).hardReset

/-- Settles O51: each ending of a command, each kind of host transaction and both resets keep the invariant. -/
theorem everyStepKeepsTheInvariant : Obligations.EveryStepKeepsTheInvariant := fun _ _ h ht => h.step ht

end Sys2Proof.Machine
end

section
/-! SUPPORT. What completions leave unchanged: registers, memory, session (R130, R136, R210, R802 to R804). -/

namespace Sys2Proof.Machine

open Sys2Proof.Claims

variable {s t : State}

/-- A success that wrote inside DMEM has touched no byte outside the OUTLEN bytes at the place it wrote. -/
theorem readByte_completeOk_of_outside {u : State} {a : Nat} {v : Bytes} (hlegal : u.params.legal)
    (hfits : Fits u a v.length) (x : Nat)
    (hx : x < a ∨ a + (completeOk v.length (u.memWrite a v)).regs.outlen.toNat ≤ x) :
    (completeOk v.length (u.memWrite a v)).readByte x = u.readByte x := by
  obtain ⟨-, -, hmax⟩ := hlegal
  have hlen : (BitVec.ofNat 32 v.length).toNat = v.length := Nat.mod_eq_of_lt (by omega)
  simp only [completeOk_regs, hlen] at hx
  rw [readByte_completeOk_memWrite, if_neg (by omega)]

/-- Settles O16: an output in DMEM is shorter than 2^32, so OUTLEN is its length. -/
theorem commandsWriteOnlyTheirOutputRange : Obligations.CommandsWriteOnlyTheirOutputRange := by
  intro i s t hlegal hp ht a ha
  cases Ending.of_exec ht with
  | error hc | nothing hi | key k g hkey hk => rfl
  | output v g hkey hdec hfits => exact readByte_completeOk_of_outside hlegal (hfits hp) a ha
  | plaintext v hdec hset hfits => exact readByte_completeOk_of_outside (u := deriveReverse s) hlegal (hfits hp) a ha

/-- Settles O9: success and error completion set the same flags, and a command's effect is inside its frame. -/
theorem everyCompletionEndsAndKeepsOperands : Obligations.EveryCompletionEndsAndKeepsOperands := by
  intro s
  have completion := complete_completion s
  obtain ⟨t, ht, huntouched⟩ := completion.answers_untouched
  refine ⟨t, ht, huntouched, ?_⟩
  generalize hr : complete s = r at completion ht
  cases completion with
  | error c => cases ht; rfl
  | success n same =>
    obtain ⟨-, hregs⟩ := same
    cases ht
    rw [completeOk_regs, hregs]

theorem commitSession_derive (f : PBoxForm) (k : Bytes) (ss : Session) :
    commitSession (derive f k) k ss = sessionOfKey f ss k := by
  simp [commitSession, sessionOfKey]

theorem not_mem_keyCommands_of_decrypt {i : Instr} (h : i ∈ decryptCommands) : i ∉ keyCommands := by
  have hdisjoint : ∀ i ∈ decryptCommands, i ∉ keyCommands := by decide
  exact hdisjoint i h

/-- Settles O18, by the five ways a command can end. -/
theorem sessionChangesOnlyAsFixed : Obligations.SessionChangesOnlyAsFixed := by
  intro i s t ht
  cases Ending.of_exec ht with
  | error hc => exact ⟨fun _ _ => rfl, fun _ => rfl, fun _ hok => absurd hok hc, fun _ hok => absurd hok hc⟩
  | nothing hi =>
    subst hi
    exact ⟨fun _ _ => rfl, fun _ => rfl, fun hdec => absurd hdec (by decide), fun hkey => absurd hkey (by decide)⟩
  | output v g hkey hdec hfits =>
    exact ⟨fun _ _ => rfl, fun _ => rfl, fun hdec' => absurd hdec' hdec, fun hkey' => absurd hkey' hkey⟩
  | plaintext v hdec hset hfits =>
    exact ⟨fun _ hdec' => absurd hdec hdec', fun herr => absurd rfl herr, fun _ _ => rfl,
      fun hkey => absurd hkey (not_mem_keyCommands_of_decrypt hdec)⟩
  | key k g hkey hk =>
    exact ⟨fun hkey' => absurd hkey hkey', fun herr => absurd rfl herr,
      fun hdec => absurd hkey (not_mem_keyCommands_of_decrypt hdec),
      fun _ _ => ⟨rfl, rfl, commitSession_derive _ k _⟩⟩

/-- Settles O6: on a busy core's turn the step is its completion, and the word decodes. -/
theorem stepRunsTheDecodedCommand : Obligations.StepRunsTheDecodedCommand := by
  intro s rest i hturn hbusy hdecode
  rw [step_of_coreMovesNext hturn]
  simp [coreTurn, hbusy, complete, hdecode]

/-- Settles O12: the key is the first of the checks of R807. -/
theorem keyedCommandsNeedAKey : Obligations.KeyedCommandsNeedAKey := by
  intro i s hi hunset
  have hneeds : ∀ i ∈ keyedCommands, needsKey i = true := by decide
  exact exec_of_precheck_error i s .keyNotSet (by simp [precheck, hneeds i hi, hunset])

/-! ### KEY_VALID -/

/-- On the core's turn KEY_VALID stays, or a key command has ended in success. -/
theorem coreTurn_keyValid (ht : coreTurn s = .next t) :
    t.session.keyValid = s.session.keyValid ∨
    (t.session.keyValid = true ∧ s.regs.busy = true ∧ t.regs.busy = false ∧ t.regs.done = true ∧ t.regs.err = .ok ∧
      ∃ i ∈ keyCommands, decode s.pending.word = .ok i) := by
  obtain ⟨hbusy, hc⟩ | ⟨-, hc⟩ := coreTurn_cases s
  · obtain ⟨i, hi, he⟩ | ⟨e, -, he⟩ := complete_cases s
    · cases Ending.of_exec (he ▸ hc ▸ ht) with
      | error hc | nothing hi | output v g hkey hdec hfits | plaintext v hdec hset hfits => exact .inl rfl
      | key k g hkey hk => exact .inr ⟨rfl, hbusy, rfl, rfl, rfl, i, hkey, hi⟩
    · rw [hc, he] at ht
      cases ht
      exact .inl rfl
  · rw [hc] at ht
    cases ht
    exact .inl rfl

theorem writeCtrl_of_srst {v : Word} (h : v.getLsbD 1 = true) : writeCtrl v s = softReset s := if_pos h

theorem writeCtrl_of_ie {v : Word} (h : v.getLsbD 1 = false) :
    writeCtrl v s = { s with regs := { s.regs with ie := v.getLsbD 0 } } := if_neg (h ▸ Bool.false_ne_true)

/-- A write keeps the session unless it is a soft reset. -/
theorem writeTarget_session (v : Word) (s : State) (tgt : Target) :
    (writeTarget v s tgt).session = s.session ∨
    (tgt = .ctrl ∧ v.getLsbD 1 = true ∧ (writeTarget v s tgt).session.keyValid = false) := by
  cases tgt with
  | ctrl =>
    cases hv : v.getLsbD 1 with
    | false => exact .inl (by rw [writeTarget, writeCtrl_of_ie hv])
    | true => exact .inr ⟨rfl, rfl, by rw [writeTarget, writeCtrl_of_srst hv]; rfl⟩
  | status =>
    refine .inl ?_
    simp only [writeTarget, writeStatus]
    split <;> rfl
  | id | cmd | src | len | dst | outlen | prngSeed | keyIn w | key w | ks off | sbox off | rsbox off | pbox off
  | rpbox off | dmem off | unmapped => exact .inl rfl

/-- A transaction keeps the session unless it is a soft reset: a write to CTRL with SRST set. -/
theorem busAccess_session (txn : Txn) (s : State) :
    (busAccess txn s).session = s.session ∨
    (Event.bus txn = writeTo 0x004 txn.wdata ∧ txn.wdata.getLsbD 1 = true ∧
      (busAccess txn s).session.keyValid = false) := by
  obtain ⟨-, he⟩ | ⟨-, -, ⟨-, -, -, he⟩ | ⟨hw, -, he⟩ | ⟨-, -, -, he⟩ | ⟨-, -, he⟩⟩ := busAccess_cases txn s
  · exact .inl (by rw [he]; rfl)
  · exact .inl (by rw [he]; rfl)
  · rw [he]
    refine (writeTarget_session txn.wdata s (s.target txn.addr)).imp id ?_
    rintro ⟨htarget, hsrst, hvalid⟩
    have haddr : txn.addr = 0x004 := BitVec.eq_of_toNat_eq (eq_of_target_eq_ctrl htarget)
    obtain ⟨addr, write, wdata⟩ := txn
    cases haddr
    cases hw
    exact ⟨rfl, hsrst, hvalid⟩
  · exact .inl (by rw [he]; rfl)
  · exact .inl (by rw [he]; rfl)

/-- Settles O52: only a key command's success sets KEY_VALID on the core's turn, only SRST clears it over the bus, and
a pulse on `rst` clears it. -/
theorem keyValidChangesOnlyByKeyCommandsAndResets : Obligations.KeyValidChangesOnlyByKeyCommandsAndResets := by
  intro s t ht
  obtain ⟨rest, hturn, he⟩ | ⟨txn, rest, hin, he⟩ | ⟨rest, hin, he⟩ := step_agents s
  · obtain hkept | ⟨hset, hsuccess⟩ := coreTurn_keyValid (he.symm.trans ht)
    · exact ⟨fun h h' => absurd (hkept.trans h) (by simp [h']), fun h h' => absurd (hkept.trans h) (by simp [h'])⟩
    · exact ⟨fun _ h' => absurd hset (by simp [h']), fun _ _ => ⟨⟨rest, hturn⟩, hsuccess⟩⟩
  · rw [he] at ht
    cases ht
    obtain hkept | ⟨hwrite, hsrst, hcleared⟩ := busAccess_session txn { s with inbox := rest }
    · have hkept := congrArg Session.keyValid hkept
      exact ⟨fun h h' => absurd (hkept.trans h) (by simp [h']), fun h h' => absurd (hkept.trans h) (by simp [h'])⟩
    · exact ⟨fun _ _ => .inr ⟨rest, txn.wdata, hwrite ▸ hin, hsrst⟩, fun _ h' => absurd h' (by simp [hcleared])⟩
  · rw [he] at ht
    cases ht
    exact ⟨fun _ _ => .inl ⟨rest, hin⟩, nofun⟩

end Sys2Proof.Machine
end

section
/-! SUPPORT. The results of commands that write at DST and of SETKEY (R460, R461, R552, R556, R702). -/

namespace Sys2Proof.Machine

open Sys2Proof.Claims

/-- A success that writes `v` at DST, from a state in which no byte of DMEM has moved yet. -/
theorem finishWrite_wroteAtDst {s u : State} (hframe : SameFrame s u) (hdmem : u.dmem = s.dmem) {v : Bytes} {n : Nat}
    (hn : v.length = n) :
    ∃ t, finishWrite v u = .next t ∧ WroteAtDst s t n v ∧ t.session = u.session ∧ t.prng = u.prng := by
  obtain ⟨huntouched, hregs⟩ := hframe
  obtain ⟨hparams, hpending, hepoch, hdraws, hinbox, hreplies⟩ := huntouched
  have hdst : u.pending.dst.toNat = dstOf s := by rw [hpending]
  subst hn
  refine ⟨_, finishWrite_eq v u, ⟨rfl, by simp [okRegs, hregs], fun j hj => ?_, fun a ha => ?_, ?_⟩, rfl, rfl⟩
  · rw [readByte_completeOk_memWrite, hdst, if_pos (by omega), Nat.add_sub_cancel_left]
  · rw [readByte_completeOk_memWrite, hdst, if_neg (by omega), readByte_congr hdmem hepoch]
  · exact ⟨hparams, hpending, hepoch, hdraws, hinbox, hreplies⟩

/-- A component command whose checks pass writes what it computed, and that is all it does. -/
theorem computed_of_precheck {i : Instr} {s : State} (f : State → Bytes) {n : Nat} (hpass : precheck i s = none)
    (hn : (f s).length = n) : ∃ t, guarded i s (fun s => finishWrite (f s) s) = .next t ∧ Computed s t n (f s) := by
  rw [guarded_pass _ hpass]
  exact finishWrite_wroteAtDst (SameFrame.refl s) rfl hn

/-- The checks of a command that names SRC and DST pass once both ranges are in DMEM (R302, R807). -/
theorem precheck_of_fits {i : Instr} {s : State} {m n : Nat} (hkey : needsKey i = true → s.session.keyValid = true)
    (hlen : lengthError i (lenOf s) = none) (hm : srcBytes i (lenOf s) = some m) (hn : dstBytes i (lenOf s) = some n)
    (hsrc : Fits s (srcOf s) m) (hdst : Fits s (dstOf s) n) : precheck i s = none :=
  precheck_eq_none.2 ⟨hkey, hlen, by simpa [hm, rangeOk] using hsrc, by simpa [hn, rangeOk] using hdst⟩

/-- Settles O36: with both ranges in DMEM the checks pass, and an entry of a P-box is a byte with bits 7:6 zero. -/
theorem boxCommandsWriteTheBox : Obligations.BoxCommandsWriteTheBox := by
  intro s
  refine ⟨fun hsrc hdst => ?_, fun hsrc hdst => ?_⟩
  · exact computed_of_precheck (fun s => genSBox (srcRead 1216 s)) (precheck_of_fits nofun rfl rfl rfl hsrc hdst)
      (genSBox_length _ (srcRead_length 1216 s))
  · simp only [BitVec.ofNat_toNat]
    exact computed_of_precheck (fun s => (genPBox (srcRead 320 s)).map (BitVec.setWidth 8))
      (precheck_of_fits nofun rfl rfl rfl hsrc hdst) (by rw [List.length_map, genPBox_length _ (srcRead_length 320 s)])

/-- Settles O25: the checks pass, and the reverse boxes are cached before the block is written. -/
theorem decblkDecryptsOneBlock : Obligations.DecblkDecryptsOneBlock := by
  intro s hp hset hsrc hdst
  have hpass : precheck .decblk s = none := precheck_of_fits (fun _ => hset) rfl rfl rfl hsrc hdst
  simp only [exec, execDecblk, guarded_pass _ hpass]
  exact finishWrite_wroteAtDst (SameFrame.refl s).deriveReverse rfl (sessionDec_length hp (srcRead_length 16 s))

/-- The lanes of four words, one after another (R119, R202). -/
theorem keyInBytes_eq (k : Vector Word 4) :
    keyInBytes k = (List.range 16).map fun i => (k.toList.getD (i / 4) 0).extractLsb' (8 * (i % 4)) 8 := by
  obtain ⟨⟨words⟩, hsize⟩ := k
  match words, hsize with
  | [_, _, _, _], _ => rfl

/-- Settles O20: SETKEY makes no check. -/
theorem setkeyEstablishesKeyIn : Obligations.SetkeyEstablishesKeyIn := by
  intro s
  rw [← keyInBytes_eq, ← commitSession_derive]
  exact ⟨_, rfl, rfl, rfl, rfl, fun _ => rfl, rfl, rfl, rfl, rfl, rfl, rfl⟩

end Sys2Proof.Machine
end

section
/-! SUPPORT. Reads and writes of an aligned, mapped offset, from the schedule to the answer (R200 to R207, R906, R907). -/

namespace Sys2Proof.Machine

open Sys2Proof.Claims

variable {s : State} {rest : List Event} {a v : Word} {tgt : Target}

theorem targetValue_withInbox (s : State) (rest : List Event) (tgt : Target) :
    targetValue { s with inbox := rest } tgt = targetValue s tgt := by
  cases tgt <;> rfl

/-- A read of a target that is shown, because the core is idle or the target is specified while it is busy. -/
theorem step_of_read (hin : s.inbox = readFrom a v :: rest) (ha : a.toNat % 4 = 0) (htarget : s.target a = tgt)
    (hmapped : tgt ≠ .unmapped) (hshown : s.regs.busy = false ∨ tgt.unspecifiedWhileBusy = false) :
    step s = .next (answered s rest (.read (targetValue s tgt) false)) := by
  have hbusy : (s.regs.busy && tgt.unspecifiedWhileBusy) = false := Bool.and_eq_false_iff.2 hshown
  rw [← targetValue_withInbox s rest]
  simp [step, advance, hin, readFrom, perform, busAccess, aligned_iff, ha, htarget, hmapped, readMapped, hbusy, answer,
    answered]

/-- A write of a target that takes it, because the core is idle or the target is no operand. -/
theorem step_of_write (hin : s.inbox = writeTo a v :: rest) (ha : a.toNat % 4 = 0) (htarget : s.target a = tgt)
    (hmapped : tgt ≠ .unmapped) (htaken : s.regs.busy = false ∨ tgt.rejectedWhileBusy = false) :
    step s = .next (answer (.write false) (writeTarget v { s with inbox := rest } tgt)) := by
  have hbusy : (s.regs.busy && tgt.rejectedWhileBusy) = false := Bool.and_eq_false_iff.2 htaken
  simp [step, advance, hin, writeTo, perform, busAccess, aligned_iff, ha, htarget, hmapped, writeMapped, hbusy]

/-- Every register stands at an aligned offset of the register page. -/
theorem registerMap_spec {off : Nat} (h : (off, tgt) ∈ registerMap) :
    off % 4 = 0 ∧ off < 0x1000 ∧ registerMap.lookup off = some tgt ∧ tgt ≠ .unmapped := by
  have hall : ∀ p ∈ registerMap, p.1 % 4 = 0 ∧ p.1 < 0x1000 ∧ registerMap.lookup p.1 = some p.2 ∧ p.2 ≠ .unmapped := by
    decide
  exact hall (off, tgt) h

theorem target_of_mem_registerMap {size off : Nat} (h : (off, tgt) ∈ registerMap) : target size off = tgt := by
  obtain ⟨-, hlt, hlookup, -⟩ := registerMap_spec h
  rw [target_of_lt hlt, hlookup, Option.getD_some]

theorem step_of_register_read (hreg : (a.toNat, tgt) ∈ registerMap)
    (hshown : s.regs.busy = false ∨ tgt.unspecifiedWhileBusy = false) (hin : s.inbox = readFrom a v :: rest) :
    step s = .next (answered s rest (.read (targetValue s tgt) false)) := by
  obtain ⟨ha, -, -, hmapped⟩ := registerMap_spec hreg
  exact step_of_read hin ha (target_of_mem_registerMap hreg) hmapped hshown

theorem step_of_register_write (hreg : (a.toNat, tgt) ∈ registerMap)
    (htaken : s.regs.busy = false ∨ tgt.rejectedWhileBusy = false) (hin : s.inbox = writeTo a v :: rest) :
    step s = .next (answer (.write false) (writeTarget v { s with inbox := rest } tgt)) := by
  obtain ⟨ha, -, -, hmapped⟩ := registerMap_spec hreg
  exact step_of_write hin ha (target_of_mem_registerMap hreg) hmapped htaken

end Sys2Proof.Machine
end

section
/-! SUPPORT. Reads and writes of the registers (R110 to R119, R605, R906, R907). -/

namespace Sys2Proof.Machine

open Sys2Proof.Claims

theorem ctrlWord_eq (s : State) : ctrlWord s = if s.regs.ie then 1 else 0 := by
  simp [ctrlWord, flagAt]

theorem getLsbD_flagAt {k : Nat} (hk : k < 32) (b : Bool) (i : Nat) :
    (flagAt b k).getLsbD i = (b && decide (k = i)) := by
  cases b with
  | false => simp [flagAt]
  | true => exact (BitVec.getLsbD_twoPow k i).trans (by simp [hk])

/-- The bits of STATUS, one by one (R112). -/
theorem getLsbD_statusWord (s : State) {i : Nat} (hi : i < 32) :
    (statusWord s).getLsbD i = (s.regs.busy && decide (0 = i) || s.regs.done && decide (1 = i) ||
      s.session.keyValid && decide (2 = i) || s.session.revValid && decide (3 = i) ||
      (!decide (i < 8) && s.regs.err.code.getLsbD (i - 8))) := by
  have hi' : i - 8 < 32 := by omega
  simp only [statusWord, BitVec.getLsbD_or, BitVec.getLsbD_shiftLeft, BitVec.getLsbD_setWidth, hi, hi', decide_true,
    Bool.true_and, getLsbD_flagAt (show 0 < 32 by decide), getLsbD_flagAt (show 1 < 32 by decide),
    getLsbD_flagAt (show 2 < 32 by decide), getLsbD_flagAt (show 3 < 32 by decide)]

/-- Above the four flags stands ERR, from bit 8 (R112). -/
theorem getLsbD_statusWord_of_ge (s : State) {i : Nat} (hlow : 4 ≤ i) (hi : i < 32) :
    (statusWord s).getLsbD i = (!decide (i < 8) && s.regs.err.code.getLsbD (i - 8)) := by
  rw [getLsbD_statusWord s hi]
  simp [show 0 ≠ i by omega, show 1 ≠ i by omega, show 2 ≠ i by omega, show 3 ≠ i by omega]

theorem statusWord_showsStatus (s : State) : ShowsStatus s (statusWord s) := by
  refine ⟨(getLsbD_statusWord s (by decide)).trans (by simp), (getLsbD_statusWord s (by decide)).trans (by simp),
    (getLsbD_statusWord s (by decide)).trans (by simp), (getLsbD_statusWord s (by decide)).trans (by simp), ?_, ?_, ?_⟩
  · refine BitVec.eq_of_getLsbD_eq fun i hi => ?_
    rw [BitVec.getLsbD_extractLsb', getLsbD_statusWord_of_ge s (by omega) (by omega)]
    simp [show 4 + i < 8 by omega]
  · refine BitVec.eq_of_getLsbD_eq fun i hi => ?_
    rw [BitVec.getLsbD_extractLsb', getLsbD_statusWord_of_ge s (by omega) (by omega)]
    simp [hi]
  · refine BitVec.eq_of_getLsbD_eq fun i hi => ?_
    rw [BitVec.getLsbD_extractLsb', getLsbD_statusWord_of_ge s (by omega) (by omega),
      BitVec.getLsbD_of_ge _ _ (by omega)]
    simp

/-- Settles O42: every register is shown at any time, the operands among them (R907). -/
theorem registerReadsShowTheRegisters : Obligations.RegisterReadsShowTheRegisters := by
  intro s rest v
  have shown : ∀ {a : Word} (tgt : Target), (a.toNat, tgt) ∈ registerMap → tgt.unspecifiedWhileBusy = false →
      s.inbox = readFrom a v :: rest → step s = .next (answered s rest (.read (targetValue s tgt) false)) :=
    fun _ hreg hshown => step_of_register_read hreg (.inr hshown)
  refine ⟨?_, fun hin => ?_, fun hin => ⟨statusWord s, statusWord_showsStatus s, shown .status (by decide) rfl hin⟩⟩
  · simp only [List.forall_mem_cons]
    exact ⟨shown .id (by decide) rfl, shown .cmd (by decide) rfl, shown .src (by decide) rfl,
      shown .len (by decide) rfl, shown .dst (by decide) rfl, shown .outlen (by decide) rfl,
      shown .prngSeed (by decide) rfl, shown (.keyIn 0) (by decide) rfl, shown (.keyIn 1) (by decide) rfl,
      shown (.keyIn 2) (by decide) rfl, shown (.keyIn 3) (by decide) rfl, nofun⟩
  · rw [← ctrlWord_eq]
    exact shown .ctrl (by decide) rfl hin

theorem writeStatus_of_done {v : Word} (s : State) (h : v.getLsbD 1 = true) :
    writeStatus v s = { s with regs := { s.regs with done := false } } := if_pos h

/-- Settles O45: an operand is taken while the core is idle, CTRL and STATUS at any time (R906). -/
theorem registerWritesTakeEffect : Obligations.RegisterWritesTakeEffect := by
  intro s rest v
  refine ⟨fun hidle => ?_, fun hin hie => ?_, fun hin hdone => ?_⟩
  · have taken : ∀ {a : Word} (tgt : Target), (a.toNat, tgt) ∈ registerMap → s.inbox = writeTo a v :: rest →
        step s = .next (answer (.write false) (writeTarget v { s with inbox := rest } tgt)) :=
      fun _ hreg => step_of_register_write hreg (.inl hidle)
    have hkeyIn : ∀ w : Fin 4, ((BitVec.ofNat 32 (0x030 + 4 * w.val)).toNat, Target.keyIn w) ∈ registerMap := by decide
    exact ⟨taken .src (by decide), taken .len (by decide), taken .dst (by decide),
      fun w => taken (.keyIn w) (hkeyIn w), taken .prngSeed (by decide)⟩
  · rw [step_of_register_write (tgt := .ctrl) (by decide) (.inr rfl) hin, writeTarget, writeCtrl_of_ie hie]
    rfl
  · rw [step_of_register_write (tgt := .status) (by decide) (.inr rfl) hin, writeTarget, writeStatus_of_done _ hdone]
    rfl

end Sys2Proof.Machine
end

section
/-! SUPPORT. Reads of KEY0..3 and the windows (R120, R202, R204, R207). -/

namespace Sys2Proof.Machine

open Sys2Proof.Claims

/-! ### Where the windows stand -/

section
variable {size a : Nat}

theorem target_key (h : a % 4 = 0) (hlow : 0x040 ≤ a) (hhigh : a < 0x050) :
    ∃ w : Fin 4, 4 * w.val = a - 0x040 ∧ target size a = .key w := by
  obtain rfl | rfl | rfl | rfl : a = 0x040 ∨ a = 0x044 ∨ a = 0x048 ∨ a = 0x04C := by omega
  · exact ⟨0, rfl, rfl⟩
  · exact ⟨1, rfl, rfl⟩
  · exact ⟨2, rfl, rfl⟩
  · exact ⟨3, rfl, rfl⟩

theorem target_ks (hlow : 0x1000 ≤ a) (hhigh : a < 0x1800) : target size a = .ks (a - 0x1000) := by
  rw [target, if_neg (by omega), if_pos hhigh]

theorem target_sbox (hlow : 0x1800 ≤ a) (hhigh : a < 0x1900) : target size a = .sbox (a - 0x1800) := by
  rw [target, if_neg (by omega), if_neg (by omega), if_pos hhigh]

theorem target_rsbox (hlow : 0x1900 ≤ a) (hhigh : a < 0x1A00) : target size a = .rsbox (a - 0x1900) := by
  rw [target, if_neg (by omega), if_neg (by omega), if_neg (by omega), if_pos hhigh]

theorem target_pbox (hlow : 0x1A00 ≤ a) (hhigh : a < 0x1A40) : target size a = .pbox (a - 0x1A00) := by
  rw [target, if_neg (by omega), if_neg (by omega), if_neg (by omega), if_neg (by omega), if_pos hhigh]

theorem target_rpbox (hlow : 0x1A40 ≤ a) (hhigh : a < 0x1A80) : target size a = .rpbox (a - 0x1A40) := by
  rw [target, if_neg (by omega), if_neg (by omega), if_neg (by omega), if_neg (by omega), if_neg (by omega),
    if_pos hhigh]

theorem target_window_ne_unmapped (h : a % 4 = 0) (ha : (0x040 ≤ a ∧ a < 0x050) ∨ (0x1000 ≤ a ∧ a < 0x1A80)) :
    target size a ≠ .unmapped := by
  obtain ⟨hlow, hhigh⟩ | ⟨hlow, hhigh⟩ := ha
  · obtain ⟨w, -, htarget⟩ := target_key (size := size) h hlow hhigh
    simp [htarget]
  · rw [target, if_neg (by omega)]
    split_ifs <;> simp

end

/-! ### What a window shows -/

theorem windowWord_shows (valid : Bool) (region : Bytes) (off : Nat) :
    if valid then ShowsLanes (windowWord valid region off) (fun k => region.getD k 0) off
    else windowWord valid region off = 0 := by
  cases valid with
  | false => simp [windowWord]
  | true =>
    simp only [windowWord, if_true]
    exact laneWord_lane _ off

theorem entryBytes_getD (p : PBox) (k : Nat) : (entryBytes p).getD k 0 = BitVec.ofNat 8 (p.getD k 0).toNat := by
  cases hk : p[k]? <;> simp [entryBytes, List.getD, hk]

theorem windowWord_entryBytes_shows (valid : Bool) (p : PBox) (off : Nat) :
    if valid then ShowsLanes (windowWord valid (entryBytes p) off) (fun k => BitVec.ofNat 8 (p.getD k 0).toNat) off
    else windowWord valid (entryBytes p) off = 0 := by
  simpa only [entryBytes_getD] using windowWord_shows valid (entryBytes p) off

/-- Settles O44: the read answers the target's value, and each range is one target. -/
theorem windowsShowOnlyValidState : Obligations.WindowsShowOnlyValidState := by
  intro s rest a v hidle hin ha hrange
  refine ⟨_, step_of_read hin ha rfl (target_window_ne_unmapped ha hrange) (.inl hidle), ?_, ?_, ?_, ?_, ?_, ?_⟩ <;>
    intro hlow
  · intro hhigh
    obtain ⟨w, hoff, htarget⟩ := target_key ha hlow hhigh
    rw [State.target, htarget, ← hoff]
    exact windowWord_shows _ _ _
  · intro hhigh
    rw [State.target, target_ks hlow hhigh]
    exact windowWord_shows _ _ _
  · intro hhigh
    rw [State.target, target_sbox hlow hhigh]
    exact windowWord_shows _ _ _
  · intro hhigh
    rw [State.target, target_rsbox hlow hhigh]
    exact windowWord_shows _ _ _
  · intro hhigh
    rw [State.target, target_pbox hlow hhigh]
    exact windowWord_entryBytes_shows _ _ _
  · rw [State.target, target_rpbox hlow (by omega)]
    exact windowWord_entryBytes_shows _ _ _

end Sys2Proof.Machine
end

section
/-! SUPPORT. Ranges outside DMEM (R209, R302, R304, R657, R661, R807). -/

namespace Sys2Proof.Machine

open Sys2Proof.Claims

variable {i : Instr} {s : State}

/-- A range is the last of the checks before any data is read (R807 items 3 to 5). -/
theorem exec_of_range_error (hkey : needsKey i = true → s.session.keyValid = true)
    (hlen : lengthError i (lenOf s) = none)
    (hrange : ¬(rangeOk s.params.dmemBytes s.pending.src (srcBytes i (lenOf s)) = true ∧
      rangeOk s.params.dmemBytes s.pending.dst (dstBytes i (lenOf s)) = true)) :
    exec i s = .next (errState .badRange s) := by
  have hkey : (needsKey i && !s.session.keyValid) = false := by simpa using hkey
  exact exec_of_precheck_error i s .badRange (by simpa [precheck, hkey, hlen] using hrange)

theorem exec_of_not_fits {m n : Nat} (hkey : needsKey i = true → s.session.keyValid = true)
    (hlen : lengthError i (lenOf s) = none) (hm : srcBytes i (lenOf s) = some m) (hn : dstBytes i (lenOf s) = some n)
    (h : ¬(Fits s (srcOf s) m ∧ Fits s (dstOf s) n)) : exec i s = .next (errState .badRange s) :=
  exec_of_range_error hkey hlen (by simpa [hm, hn, rangeOk] using h)

theorem exec_of_src_not_fits {m : Nat} (hkey : needsKey i = true → s.session.keyValid = true)
    (hlen : lengthError i (lenOf s) = none) (hm : srcBytes i (lenOf s) = some m) (h : ¬Fits s (srcOf s) m) :
    exec i s = .next (errState .badRange s) :=
  exec_of_range_error hkey hlen fun ⟨hsrc, _⟩ => h (by simpa [hm, rangeOk] using hsrc)

theorem exec_of_dst_not_fits {n : Nat} (hkey : needsKey i = true → s.session.keyValid = true)
    (hlen : lengthError i (lenOf s) = none) (hn : dstBytes i (lenOf s) = some n) (h : ¬Fits s (dstOf s) n) :
    exec i s = .next (errState .badRange s) :=
  exec_of_range_error hkey hlen fun ⟨_, hdst⟩ => h (by simpa [hn, rangeOk] using hdst)

/-- Settles O14: each command's checks before the range pass, and its byte counts are those of R304. -/
theorem rangesOutsideDmemAreReported : Obligations.RangesOutsideDmemAreReported := by
  intro s
  refine ⟨?_, fun v idx => exec_of_not_fits nofun rfl rfl rfl, exec_of_not_fits nofun rfl rfl rfl,
    exec_of_dst_not_fits nofun rfl rfl, fun hlen => exec_of_src_not_fits nofun (if_pos hlen) rfl,
    fun hlen => exec_of_src_not_fits nofun (if_pos hlen) rfl, fun hset => ⟨fun h => ⟨?_, ?_⟩, ?_, ?_, ?_, ?_⟩⟩
  · have free : ∀ (i : Instr) {m n : Nat}, needsKey i = false → lengthError i (lenOf s) = none →
        srcBytes i (lenOf s) = some m → dstBytes i (lenOf s) = some n →
        ¬(Fits s (srcOf s) m ∧ Fits s (dstOf s) n) → exec i s = .next (errState .badRange s) :=
      fun i _ _ hkey => exec_of_not_fits fun hneeds => absurd hneeds (by simp [hkey])
    simp only [fixedRanges, List.forall_mem_cons]
    exact ⟨free .boxgens rfl rfl rfl rfl, free .boxgenp rfl rfl rfl rfl, free .mix rfl rfl rfl rfl,
      free .fold rfl rfl rfl rfl, free .kiss rfl rfl rfl rfl, free .kiss2 rfl rfl rfl rfl, free .to2bit rfl rfl rfl rfl,
      free .from2bit rfl rfl rfl rfl, free .rotl1 rfl rfl rfl rfl, nofun⟩
  · exact exec_of_not_fits (fun _ => hset) rfl rfl rfl h
  · exact exec_of_not_fits (fun _ => hset) rfl rfl rfl h
  · exact exec_of_not_fits (fun _ => hset) rfl rfl rfl
  · refine exec_of_not_fits (fun _ => hset) rfl rfl (congrArg some ?_)
    omega
  · exact fun hmin hmod => exec_of_not_fits (fun _ => hset) (if_pos ⟨hmod, hmin⟩) rfl rfl
  · exact fun hmin hmod => exec_of_not_fits (fun _ => hset) (if_pos ⟨hmod, by omega⟩) rfl rfl

end Sys2Proof.Machine
end

section
/-! SUPPORT. Bus errors, unspecified reads and ignored writes (R201, R204 to R206, R809, R907). -/

namespace Sys2Proof.Machine

open Sys2Proof.Claims

/-! ### What an offset reaches -/

section
variable {size a : Nat}

theorem mem_registerOffsets_iff : a ∈ registerOffsets ↔ ∃ tgt, (a, tgt) ∈ registerMap := by
  have hoffsets : registerOffsets = registerMap.map Prod.fst := rfl
  simp [hoffsets]

theorem target_eq_unmapped_iff_of_lt (h : a < 0x1000) : target size a = .unmapped ↔ a ∉ registerOffsets := by
  rw [mem_registerOffsets_iff, not_exists]
  constructor
  · intro hunmapped tgt hreg
    obtain ⟨-, -, -, hmapped⟩ := registerMap_spec hreg
    exact hmapped (target_of_mem_registerMap hreg ▸ hunmapped)
  · intro hnone
    rw [target_of_lt h]
    cases hl : registerMap.lookup a with
    | none => rfl
    | some tgt => exact absurd (mem_of_lookup_eq_some hl) (hnone tgt)

/-- The map of the model leaves unmapped what R204 does. -/
theorem target_eq_unmapped_iff (s : State) : target s.params.dmemBytes a = .unmapped ↔ Unmapped s a := by
  by_cases hreg : a < 0x1000
  · rw [target_eq_unmapped_iff_of_lt hreg, Unmapped]
    exact ⟨fun h => .inl ⟨hreg, h⟩, fun h => (h.resolve_right (by omega)).2⟩
  · rw [target, if_neg hreg]
    split_ifs <;> simp [Unmapped] <;> omega

theorem target_dmem (hlow : 0x10000 ≤ a) (hhigh : a < 0x10000 + size) : target size a = .dmem (a - 0x10000) := by
  rw [target, if_neg (by omega), if_neg (by omega), if_neg (by omega), if_neg (by omega), if_neg (by omega),
    if_neg (by omega), if_neg (by omega), if_pos hhigh]

/-- What R907 leaves unspecified is mapped. -/
theorem target_ne_unmapped_of_hidden {s : State} (ha : a % 4 = 0) (h : HiddenWhileBusy s a) :
    target s.params.dmemBytes a ≠ .unmapped := by
  obtain hkey | hwindow | ⟨hlow, hhigh⟩ := h
  · exact target_window_ne_unmapped ha (.inl hkey)
  · exact target_window_ne_unmapped ha (.inr hwindow)
  · simp [target_dmem hlow hhigh]

/-- The targets whose read is unspecified while the core is busy are those of R907. -/
theorem unspecifiedWhileBusy_target_iff (s : State) (ha : a % 4 = 0) :
    (target s.params.dmemBytes a).unspecifiedWhileBusy = true ↔ HiddenWhileBusy s a := by
  have hregisters : ∀ p ∈ registerMap, p.2.unspecifiedWhileBusy = true ↔ 0x040 ≤ p.1 ∧ p.1 < 0x050 := by decide
  obtain hreg | ⟨hlow, hhigh, htarget⟩ | ⟨hlow, hhigh, htarget⟩ | ⟨hlow, hhigh, htarget⟩ | ⟨hlow, hhigh, htarget⟩ |
    ⟨hlow, hhigh, htarget⟩ | ⟨hlow, hhigh, htarget⟩ | hunmapped := target_cases s.params.dmemBytes a
  · obtain ⟨-, hlt, -, -⟩ := registerMap_spec hreg
    have hkey : (target s.params.dmemBytes a).unspecifiedWhileBusy = true ↔ 0x040 ≤ a ∧ a < 0x050 := hregisters _ hreg
    rw [hkey]
    omega
  iterate 6 exact iff_of_true (by rw [htarget]; rfl) (by omega)
  · exact iff_of_false (by simp [hunmapped, Target.unspecifiedWhileBusy])
      fun hhidden => target_ne_unmapped_of_hidden ha hhidden hunmapped

end

/-! ### Transactions the core does not take -/

section
variable {s : State} {rest : List Event} {a v : Word} {tgt : Target}

theorem step_of_bus_error {t : Txn} (hin : s.inbox = .bus t :: rest)
    (h : t.addr.toNat % 4 ≠ 0 ∨ s.target t.addr = .unmapped) :
    step s = .next (answered s rest (if t.write then .write true else .read 0 true)) := by
  have hrefused : (aligned t.addr && s.target t.addr != .unmapped) = false := by
    obtain hmisaligned | hunmapped := h
    · simp [aligned, hmisaligned]
    · simp [hunmapped]
  simp [step, advance, hin, perform, busAccess, hrefused, busError, answer, answered]

/-- A read R907 leaves unspecified: its word is the next free value (log 8). -/
theorem step_of_unspecified_read (hin : s.inbox = readFrom a v :: rest) (ha : a.toNat % 4 = 0)
    (htarget : s.target a = tgt) (hmapped : tgt ≠ .unmapped) (hbusy : s.regs.busy = true)
    (hhidden : tgt.unspecifiedWhileBusy = true) :
    step s = .next { answered s rest (.read (Config.busyReadWord s.freeDraws) false) with
      freeDraws := s.freeDraws + 1 } := by
  simp [step, advance, hin, readFrom, perform, busAccess, aligned_iff, ha, htarget, hmapped, readMapped, hbusy, hhidden,
    answer, answered]

end

/-- Settles O38: neither a misaligned nor an unmapped offset reaches a target. -/
theorem busErrorsChangeNothing : Obligations.BusErrorsChangeNothing :=
  fun s _ _ hin h => step_of_bus_error hin (h.imp_right (target_eq_unmapped_iff s).2)

/-- Settles O40: a read is an unspecified read, a bus error or a read of the target's value. -/
theorem readsHaveNoSideEffect : Obligations.ReadsHaveNoSideEffect := by
  intro s rest a v hin
  by_cases hunspecified : s.regs.busy = true ∧ a.toNat % 4 = 0 ∧ HiddenWhileBusy s a.toNat
  · rw [if_pos hunspecified]
    obtain ⟨hbusy, ha, hhidden⟩ := hunspecified
    have hmapped := target_ne_unmapped_of_hidden ha hhidden
    refine ⟨Config.busyReadWord s.freeDraws, false, ?_, fun _ _ => rfl, fun herr => ?_⟩
    · exact step_of_unspecified_read hin ha rfl hmapped hbusy ((unspecifiedWhileBusy_target_iff s ha).2 hhidden)
    · exact absurd ((target_eq_unmapped_iff s).2 (herr.resolve_left (not_not_intro ha))) hmapped
  · rw [if_neg hunspecified]
    by_cases herr : a.toNat % 4 ≠ 0 ∨ Unmapped s a.toNat
    · exact ⟨0, true, step_of_bus_error hin (herr.imp_right (target_eq_unmapped_iff s).2),
        fun ha hmapped => absurd herr (by simp [ha, hmapped]), fun _ => ⟨rfl, rfl⟩⟩
    · obtain ⟨ha, hmapped⟩ : a.toNat % 4 = 0 ∧ ¬Unmapped s a.toNat := by simpa using herr
      have hshown : s.regs.busy = false ∨ (s.target a).unspecifiedWhileBusy = false := by
        simpa [ha, ← unspecifiedWhileBusy_target_iff s ha, imp_iff_not_or] using hunspecified
      exact ⟨targetValue s (s.target a), false,
        step_of_read hin ha rfl (mt (target_eq_unmapped_iff s).1 hmapped) hshown, fun _ _ => rfl,
        fun h => absurd h herr⟩

/-! ### Writes that are ignored -/

/-- The targets a write leaves as they are (R206). -/
def Target.ignoresWrites : Target → Bool
  | .id | .outlen | .key _ | .ks _ | .sbox _ | .rsbox _ | .pbox _ | .rpbox _ | .unmapped => true
  | .ctrl | .status | .cmd | .src | .len | .dst | .prngSeed | .keyIn _ | .dmem _ => false

theorem writeTarget_of_ignoresWrites {tgt : Target} (h : tgt.ignoresWrites = true) (v : Word) (s : State) :
    writeTarget v s tgt = s := by
  cases tgt with
  | id | outlen | key w | ks off | sbox off | rsbox off | pbox off | rpbox off | unmapped => rfl
  | ctrl | status | cmd | src | len | dst | prngSeed | keyIn w | dmem off => cases h

theorem rejectedWhileBusy_of_ignoresWrites {tgt : Target} (h : tgt.ignoresWrites = true) :
    tgt.rejectedWhileBusy = false := by
  cases tgt with
  | id | outlen | key w | ks off | sbox off | rsbox off | pbox off | rpbox off | unmapped => rfl
  | ctrl | status | cmd | src | len | dst | prngSeed | keyIn w | dmem off => cases h

theorem target_ignoresWrites {size a : Nat} (ha : a % 4 = 0)
    (h : a ∈ [0x000, 0x01C, 0x040, 0x044, 0x048, 0x04C] ∨ (0x1000 ≤ a ∧ a < 0x1A80)) :
    (target size a).ignoresWrites = true ∧ target size a ≠ .unmapped := by
  obtain hreg | hwindow := h
  · have hregisters : ∀ a ∈ [0x000, 0x01C, 0x040, 0x044, 0x048, 0x04C],
        (target size a).ignoresWrites = true ∧ target size a ≠ .unmapped := by
      simp only [List.forall_mem_cons]
      exact ⟨⟨rfl, nofun⟩, ⟨rfl, nofun⟩, ⟨rfl, nofun⟩, ⟨rfl, nofun⟩, ⟨rfl, nofun⟩, ⟨rfl, nofun⟩, nofun⟩
    exact hregisters a hreg
  · refine ⟨?_, target_window_ne_unmapped ha (.inr hwindow)⟩
    rw [target, if_neg (by omega)]
    split_ifs <;> simp [Target.ignoresWrites]
    omega

theorem writeStatus_of_not_done {v : Word} (s : State) (h : v.getLsbD 1 = false) : writeStatus v s = s :=
  if_neg (h ▸ Bool.false_ne_true)

/-- Settles O41: no write of a read-only target is rejected, and none has an effect. -/
theorem readOnlyTargetsIgnoreWrites : Obligations.ReadOnlyTargetsIgnoreWrites := by
  intro s rest a v hin ha h
  rw [← or_assoc] at h
  obtain hreadOnly | ⟨hstatus, hdone⟩ := h
  · obtain ⟨hignores, hmapped⟩ := target_ignoresWrites (size := s.params.dmemBytes) ha hreadOnly
    rw [step_of_write hin ha rfl hmapped (.inr (rejectedWhileBusy_of_ignoresWrites hignores)),
      writeTarget_of_ignoresWrites hignores]
    rfl
  · have hreg : (a.toNat, Target.status) ∈ registerMap := by rw [hstatus]; decide
    rw [step_of_register_write hreg (.inr rfl) hin, writeTarget, writeStatus_of_not_done _ hdone]
    rfl

end Sys2Proof.Machine
end

section
/-! SUPPORT. DMEM words in little-endian lanes (R202, R204, R208), and hardware reset (R900). -/

namespace Sys2Proof.Machine

open Sys2Proof.Claims

/-! ### Lanes -/

/-- A word is its four lanes (R202). -/
theorem eq_of_lanes {w w' : Word} (h : ∀ k, k < 4 → w.extractLsb' (8 * k) 8 = w'.extractLsb' (8 * k) 8) : w = w' := by
  refine BitVec.eq_of_getLsbD_eq fun i hi => ?_
  have hmod : i % 8 < 8 := Nat.mod_lt i (by decide)
  have hbit := congrArg (BitVec.getLsbD · (i % 8)) (h (i / 8) (by omega))
  simpa [hmod, Nat.div_add_mod] using hbit

/-- Reading a word back from the bytes it was stored as. -/
theorem laneWord_eq_of_lanes {w : Word} {byteAt : Nat → Byte} {off : Nat}
    (h : ∀ k, k < 4 → byteAt (off + k) = w.extractLsb' (8 * k) 8) : laneWord byteAt off = w :=
  eq_of_lanes fun k hk => (laneWord_lane byteAt off k hk).trans (h k hk)

theorem readByte_memWrite_wordBytes (s : State) (d : Nat) (v : Word) {k : Nat} (hk : k < 4) :
    (s.memWrite d (wordBytes v)).readByte (d + k) = v.extractLsb' (8 * k) 8 := by
  rw [readByte_memWrite, if_pos (by rw [wordBytes_length]; omega), Nat.add_sub_cancel_left, wordBytes_getD v k hk]

theorem readByte_memWrite_wordBytes_of_outside (s : State) {d x : Nat} (v : Word) (hx : x < d ∨ d + 4 ≤ x) :
    (s.memWrite d (wordBytes v)).readByte x = s.readByte x := by
  rw [readByte_memWrite, if_neg (by rw [wordBytes_length]; omega)]

/-! ### Words of DMEM on the bus -/

/-- The bus offset of byte `d` of DMEM (R204). -/
abbrev dmemAddr (d : Nat) : Word := BitVec.ofNat 32 (0x10000 + d)

section
variable {s : State} {rest : List Event} {v : Word} {d : Nat}

theorem dmemAddr_toNat (hlegal : s.params.legal) (hd : d < s.params.dmemBytes) :
    (dmemAddr d).toNat = 0x10000 + d := by
  obtain ⟨-, -, hmax⟩ := hlegal
  exact Nat.mod_eq_of_lt (by omega)

theorem target_dmemAddr (hlegal : s.params.legal) (hd : d < s.params.dmemBytes) :
    s.target (dmemAddr d) = .dmem d := by
  rw [State.target, dmemAddr_toNat hlegal hd, target_dmem (by omega) (by omega), Nat.add_sub_cancel_left]

theorem dmemAddr_aligned (hlegal : s.params.legal) (hd : d < s.params.dmemBytes) (ha : d % 4 = 0) :
    (dmemAddr d).toNat % 4 = 0 := by
  rw [dmemAddr_toNat hlegal hd]
  omega

theorem step_of_dmem_read (hlegal : s.params.legal) (hidle : s.regs.busy = false) (ha : d % 4 = 0)
    (hd : d < s.params.dmemBytes) (hin : s.inbox = readFrom (dmemAddr d) v :: rest) :
    step s = .next (answered s rest (.read (laneWord s.readByte d) false)) :=
  step_of_read hin (dmemAddr_aligned hlegal hd ha) (target_dmemAddr hlegal hd) nofun (.inl hidle)

theorem step_of_dmem_write (hlegal : s.params.legal) (hidle : s.regs.busy = false) (ha : d % 4 = 0)
    (hd : d < s.params.dmemBytes) (hin : s.inbox = writeTo (dmemAddr d) v :: rest) :
    step s = .next ((answered s rest (.write false)).memWrite d (wordBytes v)) :=
  step_of_write hin (dmemAddr_aligned hlegal hd ha) (target_dmemAddr hlegal hd) nofun (.inl hidle)

end

/-- Settles O43: the word is stored as its lanes, and a read of them gives the word. -/
theorem dmemWordsAreStoredInLanes : Obligations.DmemWordsAreStoredInLanes := by
  intro s rest d v v' hlegal hidle ha hd
  refine ⟨fun hin => ⟨_, laneWord_lane s.readByte d, step_of_dmem_read hlegal hidle ha hd hin⟩, fun hin => ?_⟩
  refine ⟨_, step_of_dmem_write hlegal hidle ha hd hin, rfl, rfl, rfl, rfl, rfl, rfl,
    fun k => readByte_memWrite_wordBytes _ d v, fun x => readByte_memWrite_wordBytes_of_outside _ v, ?_⟩
  refine ⟨_, step_of_dmem_read hlegal hidle ha hd rfl, ?_⟩
  rw [laneWord_eq_of_lanes fun k => readByte_memWrite_wordBytes _ d v]
  rfl

/-! ### Hardware reset -/

theorem reset_regs_eq : Registers.reset = resetRegs := rfl

theorem reset_session_eq_forgotten : Session.reset = forgotten Session.reset := rfl

theorem step_of_rst {s : State} {rest : List Event} (hin : s.inbox = .rst :: rest) :
    step s = .next (hardReset { s with inbox := rest }) := by
  simp [step, advance, hin, perform]

/-- Settles O48: power-up and a pulse on `rst` leave the same registers, session and generator. -/
theorem hardResetSetsEveryGivenValue : Obligations.HardResetSetsEveryGivenValue :=
  ⟨fun _ => ⟨rfl, reset_regs_eq, rfl, reset_session_eq_forgotten, rfl, rfl⟩,
    fun _ _ hin => ⟨_, step_of_rst hin, rfl, reset_regs_eq, reset_session_eq_forgotten, rfl, rfl, rfl, rfl⟩⟩

end Sys2Proof.Machine
end

section
/-! SUPPORT. The fields of a command word, the rows of the opcode table, and decoder against encoder (R301 to R308). -/

namespace Sys2Proof.Machine

open Sys2Proof.Claims

/-! ### The fields of a command word (R301) -/

section
variable {w : Word}

theorem opField_toNat (w : Word) : (opField w).toNat = w.toNat % 256 := by simp [opField]

theorem modeField_toNat (w : Word) : (modeField w).toNat = w.toNat / 256 % 4 := by
  simp [modeField, Nat.shiftRight_eq_div_pow]

theorem valField_toNat (w : Word) : (valField w).toNat = w.toNat / 2 ^ 16 % 256 := by
  simp [valField, Nat.shiftRight_eq_div_pow]

theorem idxField_eq (w : Word) : idxField w = w.toNat / 2 ^ 24 % 16 := by
  simp [idxField, Nat.shiftRight_eq_div_pow]

theorem extractLsb'_eq_zero_iff {start len : Nat} :
    w.extractLsb' start len = 0 ↔ w.toNat / 2 ^ start % 2 ^ len = 0 := by
  simp [← BitVec.toNat_inj, Nat.shiftRight_eq_div_pow]

/-- The word that is zero above MODE: every word of formats N, where MODE is 0, and M. -/
def plainWord (mode : TwoBit) (op : Byte) : Word := BitVec.ofNat 32 (256 * mode.toNat + op.toNat)

theorem eq_plainWord_of_formatM (hzero : w.extractLsb' 10 22 = 0) : w = plainWord (modeField w) (opField w) := by
  rw [extractLsb'_eq_zero_iff] at hzero
  apply BitVec.eq_of_toNat_eq
  rw [plainWord, BitVec.toNat_ofNat, modeField_toNat, opField_toNat]
  omega

theorem eq_plainWord_of_formatN (hzero : w.extractLsb' 8 24 = 0) : w = plainWord 0#2 (opField w) := by
  rw [extractLsb'_eq_zero_iff] at hzero
  apply BitVec.eq_of_toNat_eq
  rw [plainWord, BitVec.toNat_ofNat, opField_toNat, BitVec.toNat_ofNat]
  omega

/-- The fields of XOREXC's word do not overlap, so joining them is adding them up. -/
theorem encode_xorexc_toNat (val : Byte) {idx : Nat} (hidx : idx < 16) :
    (encode (.xorexc val idx)).toNat = idx * 2 ^ 24 + (val.toNat * 2 ^ 16 + 0x1C) := by
  have hval : (val.setWidth 32 <<< 16).toNat = val.toNat <<< 16 := by
    simp only [BitVec.toNat_shiftLeft, BitVec.toNat_setWidth, Nat.shiftLeft_eq]
    omega
  have hshift : (BitVec.ofNat 32 idx <<< 24).toNat = idx <<< 24 := by
    simp only [BitVec.toNat_shiftLeft, BitVec.toNat_ofNat, Nat.shiftLeft_eq]
    omega
  have hlow : val.toNat <<< 16 ||| 0x1C = val.toNat <<< 16 + 0x1C :=
    (Nat.shiftLeft_add_eq_or_of_lt (by decide) _).symm
  have hhigh : idx <<< 24 ||| (val.toNat <<< 16 + 0x1C) = idx <<< 24 + (val.toNat <<< 16 + 0x1C) :=
    (Nat.shiftLeft_add_eq_or_of_lt (by rw [Nat.shiftLeft_eq]; omega) _).symm
  rw [encode, BitVec.toNat_or, BitVec.toNat_or, hval, hshift, Nat.or_assoc]
  change idx <<< 24 ||| (val.toNat <<< 16 ||| 0x1C) = _
  rw [hlow, hhigh, Nat.shiftLeft_eq, Nat.shiftLeft_eq]

theorem encode_xorexc_fields (hop : opField w = 0x1C#8) (hhigh : w.extractLsb' 28 4 = 0)
    (hmid : w.extractLsb' 8 8 = 0) :
    encode (.xorexc (valField w) (idxField w)) = w := by
  have hop' := congrArg BitVec.toNat hop
  rw [extractLsb'_eq_zero_iff] at hhigh hmid
  rw [opField_toNat, BitVec.toNat_ofNat] at hop'
  apply BitVec.eq_of_toNat_eq
  rw [encode_xorexc_toNat _ (by rw [idxField_eq]; omega), idxField_eq, valField_toNat]
  omega

end

/-! ### What a word decodes to (R305) -/

/-- A word of XOREXC's row is XOREXC of its fields. -/
theorem decode_of_formatX {w : Word} (hop : opField w = 0x1C#8) (hhigh : w.extractLsb' 28 4 = 0)
    (hmid : w.extractLsb' 8 8 = 0) : decode w = .ok (.xorexc (valField w) (idxField w)) := by
  have hentry : opcodeTable.lookup 0x1C#8 = some .formatX := by decide
  rw [decode, hop, hentry]
  exact if_pos ⟨hhigh, hmid⟩

theorem decode_encode_xorexc (val : Byte) {idx : Nat} (hidx : idx < 16) :
    decode (encode (.xorexc val idx)) = .ok (.xorexc val idx) := by
  have hword := encode_xorexc_toNat val hidx
  have hval := val.isLt
  have hop : opField (encode (.xorexc val idx)) = 0x1C#8 := by
    apply BitVec.eq_of_toNat_eq
    rw [opField_toNat, hword, BitVec.toNat_ofNat]
    omega
  have hvalField : valField (encode (.xorexc val idx)) = val := by
    apply BitVec.eq_of_toNat_eq
    rw [valField_toNat, hword]
    omega
  have hidxField : idxField (encode (.xorexc val idx)) = idx := by
    rw [idxField_eq, hword]
    omega
  rw [decode_of_formatX hop (by rw [extractLsb'_eq_zero_iff, hword]; omega)
    (by rw [extractLsb'_eq_zero_iff, hword]; omega), hvalField, hidxField]

/-- Settles O1: XOREXC by its fields, every other command by its one word. -/
theorem decodeOfEncodeIsTheCommand : Obligations.DecodeOfEncodeIsTheCommand := by
  intro i hwf
  cases i with
  | xorexc val idx => exact decode_encode_xorexc val (of_decide_eq_true hwf)
  | _ => rfl

/-- `w` is the word of the well-formed command `i`. -/
abbrev IsWordOf (w : Word) (i : Instr) : Prop := encode i = w ∧ i.wellFormed = true

/-- What the entry of opcode `op` says about the words of its commands (R304). -/
def EntryFits (op : Byte) : OpcodeEntry → Prop
  | .formatN i => IsWordOf (plainWord 0#2 op) i
  | .formatM ecb cbc =>
    (op = 0x08#8 ∨ op = 0x09#8) ∧ IsWordOf (plainWord 0#2 op) ecb ∧ IsWordOf (plainWord 1#2 op) cbc
  | .formatX => op = 0x1C#8

theorem entryFits_of_mem {op : Byte} {e : OpcodeEntry} (h : (op, e) ∈ opcodeTable) : EntryFits op e := by
  have hall : ∀ p ∈ opcodeTable, EntryFits p.1 p.2 := by
    simp only [opcodeTable, List.cons_append, List.nil_append, List.forall_mem_cons, EntryFits, List.not_mem_nil,
      false_implies, implies_true, and_true]
    decide
  exact hall _ h

/-- Every answer of the decoder to the word `w`, with what it says about `w` (R305). -/
inductive Decoding (w : Word) : Except DecodeError Instr → Prop
  | badCommand : Decoding w (.error .badCommand)
  | invalidMode (hop : opField w = 0x08#8 ∨ opField w = 0x09#8) (hzero : w.extractLsb' 10 22 = 0)
      (hecb : modeField w ≠ 0#2) (hcbc : modeField w ≠ 1#2) : Decoding w (.error .invalidMode)
  | ok {i : Instr} (hword : IsWordOf w i) : Decoding w (.ok i)

theorem decodeEntry_decoding {w : Word} {e : OpcodeEntry} (hfits : EntryFits (opField w) e) :
    Decoding w (decodeEntry w e) := by
  fun_cases decodeEntry w e with
  | case2 | case6 | case8 => exact .badCommand
  | case1 i hzero => exact .ok (by rwa [eq_plainWord_of_formatN hzero])
  | case3 ecb cbc hzero hmode =>
    obtain ⟨-, hecb, -⟩ := hfits
    exact .ok (by rwa [eq_plainWord_of_formatM hzero, hmode])
  | case4 ecb cbc hzero _ hmode =>
    obtain ⟨-, -, hcbc⟩ := hfits
    exact .ok (by rwa [eq_plainWord_of_formatM hzero, hmode])
  | case5 ecb cbc hzero hecb hcbc =>
    obtain ⟨hop, -, -⟩ := hfits
    exact .invalidMode hop hzero hecb hcbc
  | case7 hzero =>
    obtain ⟨hhigh, hmid⟩ := hzero
    exact .ok ⟨encode_xorexc_fields hfits hhigh hmid, decide_eq_true (BitVec.isLt _)⟩

theorem decode_decoding (w : Word) : Decoding w (decode w) := by
  unfold decode
  cases h : opcodeTable.lookup (opField w) with
  | none => exact .badCommand
  | some e => exact decodeEntry_decoding (entryFits_of_mem (mem_of_lookup_eq_some h))

/-- Settles O2: the decoder answers a command only for a word that is its format's fields put together. -/
theorem encodeOfDecodeIsTheWord : Obligations.EncodeOfDecodeIsTheWord := by
  intro w i h
  have hdecoding := decode_decoding w
  rw [h] at hdecoding
  cases hdecoding with
  | ok hword => exact hword

/-- Settles O4: MODE is 2 or 3 and OP is one of the two opcodes of format M. -/
theorem onlyFourWordsHaveAnInvalidMode : Obligations.OnlyFourWordsHaveAnInvalidMode := by
  have hwords : ∀ mode : TwoBit, mode ≠ 0#2 → mode ≠ 1#2 →
      plainWord mode 0x08#8 ∈ [0x208#32, 0x308#32, 0x209#32, 0x309#32] ∧
      plainWord mode 0x09#8 ∈ [0x208#32, 0x308#32, 0x209#32, 0x309#32] := by decide
  have hrefused : ∀ w ∈ [0x208#32, 0x308#32, 0x209#32, 0x309#32], decode w = .error .invalidMode := by
    simp only [List.forall_mem_cons]
    exact ⟨rfl, rfl, rfl, rfl, nofun⟩
  refine fun w => ⟨fun h => ?_, hrefused w⟩
  have hdecoding := decode_decoding w
  rw [h] at hdecoding
  cases hdecoding with
  | invalidMode hop hzero hecb hcbc =>
    obtain ⟨hencrypt, hdecrypt⟩ := hwords _ hecb hcbc
    obtain hop | hop := hop
    · rwa [eq_plainWord_of_formatM hzero, hop]
    · rwa [eq_plainWord_of_formatM hzero, hop]

/-! ### The opcode table as masks and matches (R305) -/

/-- The family of statements of the rows, for every command at once. -/
theorem tableRow_statement (i : Instr) : Laws.TableRow.Statement i := by
  cases i with
  | xorexc val idx => exact Laws.TableRow.xorexc val idx
  | _ => exact fun _ => rfl

/-- The rows are those of the 23 commands, whatever the operands of XOREXC. -/
theorem mem_tableRows_iff {r : Word × Word} : r ∈ tableRows ↔ ∃ i, Laws.tableRow i = r := by
  constructor
  · revert r
    simp only [tableRows, List.map_cons, List.map_nil, List.forall_mem_cons]
    exact ⟨⟨.xorexc 0 0, rfl⟩, ⟨.nop, rfl⟩, ⟨.setkey, rfl⟩, ⟨.setkeystr, rfl⟩, ⟨.setkeyhex, rfl⟩, ⟨.genkey, rfl⟩,
      ⟨.encryptEcb, rfl⟩, ⟨.encryptCbc, rfl⟩, ⟨.decryptEcb, rfl⟩, ⟨.decryptCbc, rfl⟩, ⟨.encblk, rfl⟩, ⟨.decblk, rfl⟩,
      ⟨.gloria, rfl⟩, ⟨.boxgens, rfl⟩, ⟨.boxgenp, rfl⟩, ⟨.mix, rfl⟩, ⟨.fold, rfl⟩, ⟨.kiss, rfl⟩, ⟨.kiss2, rfl⟩,
      ⟨.bits, rfl⟩, ⟨.to2bit, rfl⟩, ⟨.from2bit, rfl⟩, ⟨.rotl1, rfl⟩, nofun⟩
  · rintro ⟨i, rfl⟩
    cases i with
    | xorexc val idx => exact List.mem_cons_self
    | _ => decide

/-- The row of XOREXC fixes OP and the reserved bits of format X, and nothing else. -/
theorem decode_of_xorexc_row {w : Word} (h : w &&& 0xF000FFFF#32 = 0x0000001C#32) :
    decode w = .ok (.xorexc (valField w) (idxField w)) := by
  have hfield {start len : Nat} (hmask : (0xF000FFFF#32).extractLsb' start len = BitVec.allOnes len) :
      w.extractLsb' start len = (0x1C#32).extractLsb' start len := by
    rw [← h, BitVec.extractLsb'_and, hmask, BitVec.and_allOnes]
  have hop : opField w = 0x1C#8 := hfield (start := 0) (len := 8) (by decide)
  have hhigh : w.extractLsb' 28 4 = 0 := hfield (by decide)
  have hmid : w.extractLsb' 8 8 = 0 := hfield (by decide)
  exact decode_of_formatX hop hhigh hmid

theorem decode_of_row {w : Word} {i : Instr} (h : w &&& (Laws.tableRow i).1 = (Laws.tableRow i).2) :
    ∃ j, decode w = .ok j := by
  cases i with
  | xorexc val idx => exact ⟨_, decode_of_xorexc_row h⟩
  | _ =>
    obtain rfl := (BitVec.and_allOnes (x := w)).symm.trans h
    exact ⟨_, rfl⟩

/-- Settles O3: the word of a command is in the command's row, and every row's words decode. -/
theorem wordsDecodeExactlyWhenARowMatches : Obligations.WordsDecodeExactlyWhenARowMatches := by
  intro w
  constructor
  · rintro ⟨i, h⟩
    obtain ⟨rfl, hwf⟩ := encodeOfDecodeIsTheWord w i h
    exact ⟨_, mem_tableRows_iff.2 ⟨i, rfl⟩, tableRow_statement i hwf⟩
  · rintro ⟨r, hr, hmatch⟩
    obtain ⟨i, rfl⟩ := mem_tableRows_iff.1 hr
    exact decode_of_row hmatch

/-! ### Sample words, and the completion of a word that is no command -/

/-- Settles O5, by running the decoder on the eight words. -/
theorem sampleWordsDecode : Obligations.SampleWordsDecode := by
  unfold Obligations.SampleWordsDecode
  decide

/-- Settles O7: on a busy core's turn the step is its completion, with the code of the decoder's error. -/
theorem undecodableWordCompletesWithItsError : Obligations.UndecodableWordCompletesWithItsError := by
  intro s rest e hturn hbusy hdecode
  rw [step_of_coreMovesNext hturn]
  have hfail : coreTurn { s with inbox := rest } = fail (decodeErrorCode e) { s with inbox := rest } := by
    simp [coreTurn, hbusy, complete, hdecode]
  rw [hfail]
  cases e <;> rfl

end Sys2Proof.Machine
end

section
/-! SUPPORT. The bit operations group by group and their laws, and the results of BITS, TO2BIT, FROM2BIT, ROTL1 and
XOREXC (R400 to R407, R410 to R414). -/

namespace Sys2Proof.Machine

open Sys2Proof.Claims

/-! ### Two-bit groups (R402 to R404) -/

@[simp] theorem bytesTo2Bit_nil : bytesTo2Bit [] = [] := rfl

@[simp] theorem bytesTo2Bit_cons (b : Byte) (bs : Bytes) :
    bytesTo2Bit (b :: bs) =
      byteGroup b 0 :: byteGroup b 1 :: byteGroup b 2 :: byteGroup b 3 :: bytesTo2Bit bs := rfl

theorem byteGroup_toNat (b : Byte) (k : Nat) : (byteGroup b k).toNat = b.toNat / 2 ^ (6 - 2 * k) % 4 := by
  simp [byteGroup, Nat.shiftRight_eq_div_pow]

/-- The four groups at their places in the byte, in arithmetic (R404). -/
theorem joinGroups_eq_ofNat (g0 g1 g2 g3 : TwoBit) :
    joinGroups g0 g1 g2 g3 = BitVec.ofNat 8 (64 * g0.toNat + 16 * g1.toNat + 4 * g2.toNat + g3.toNat) := by
  revert g0 g1 g2 g3
  decide

theorem joinGroups_byteGroup (b : Byte) :
    joinGroups (byteGroup b 0) (byteGroup b 1) (byteGroup b 2) (byteGroup b 3) = b := by
  have hdigits : 64 * (b.toNat / 64 % 4) + 16 * (b.toNat / 16 % 4) + 4 * (b.toNat / 4 % 4) + b.toNat % 4 = b.toNat := by
    omega
  simp [joinGroups_eq_ofNat, byteGroup_toNat, hdigits]

theorem byteGroup_joinGroups (g0 g1 g2 g3 : TwoBit) :
    byteGroup (joinGroups g0 g1 g2 g3) 0 = g0 ∧ byteGroup (joinGroups g0 g1 g2 g3) 1 = g1 ∧
    byteGroup (joinGroups g0 g1 g2 g3) 2 = g2 ∧ byteGroup (joinGroups g0 g1 g2 g3) 3 = g3 := by
  revert g0 g1 g2 g3
  decide

theorem twoBitToBytes_bytesTo2Bit (b : Bytes) : twoBitToBytes (bytesTo2Bit b) = b := by
  induction b with
  | nil => rfl
  | cons b bs ih => rw [bytesTo2Bit_cons, twoBitToBytes, joinGroups_byteGroup, ih]

/-- Splitting undoes joining for every whole number of bytes. -/
theorem bytesTo2Bit_twoBitToBytes {g : List TwoBit} (h : g.length % 4 = 0) : bytesTo2Bit (twoBitToBytes g) = g := by
  induction g using twoBitToBytes.induct with
  | case1 g0 g1 g2 g3 gs ih =>
    obtain ⟨h0, h1, h2, h3⟩ := byteGroup_joinGroups g0 g1 g2 g3
    rw [twoBitToBytes, bytesTo2Bit_cons, h0, h1, h2, h3, ih (by simp only [List.length_cons] at h; omega)]
  | case2 g hshort =>
    match g, h with
    | [], _ => rfl
    | g0 :: g1 :: g2 :: g3 :: gs, _ => exact absurd rfl (hshort g0 g1 g2 g3 gs)

/-! ### Rotation and XorExcept (R405, R406) -/

theorem rotL1_eq_map_rotateLeft (bs : Bytes) : rotL1 bs = bs.map (BitVec.rotateLeft · 1) := rfl

theorem getLsbD_rotateLeft_one (b : Byte) {i : Nat} (hi : i < 8) :
    (b.rotateLeft 1).getLsbD i = b.getLsbD ((i + 7) % 8) := by
  interval_cases i <;> simp

/-- Each rotation takes a bit from the next lower position, counted mod 8. -/
theorem getLsbD_iterate_rotateLeft_one (n : Nat) (b : Byte) {i : Nat} (hi : i < 8) :
    (Nat.iterate (BitVec.rotateLeft · 1) n b).getLsbD i = b.getLsbD ((i + 7 * n) % 8) := by
  induction n generalizing b with
  | zero => simp [Nat.mod_eq_of_lt hi]
  | succ n ih =>
    rw [Function.iterate_succ_apply, ih, getLsbD_rotateLeft_one b (Nat.mod_lt _ (by decide))]
    congr 1
    omega

theorem iterate_eight_rotateLeft_one (b : Byte) : Nat.iterate (BitVec.rotateLeft · 1) 8 b = b := by
  refine BitVec.eq_of_getLsbD_eq fun i hi => ?_
  rw [getLsbD_iterate_rotateLeft_one 8 b hi]
  congr 1
  omega

theorem iterate_rotL1 (n : Nat) (bs : Bytes) :
    Nat.iterate rotL1 n bs = bs.map (Nat.iterate (BitVec.rotateLeft · 1) n) := by
  induction n generalizing bs with
  | zero => exact (List.map_id bs).symm
  | succ n ih =>
    rw [Function.iterate_succ_apply, ih, rotL1_eq_map_rotateLeft, List.map_map]
    rfl

theorem getElem?_xorExcept (bs : Bytes) (v : Byte) (skip j : Nat) :
    (xorExcept bs v skip)[j]? = bs[j]?.map fun b => if j = skip then b else b ^^^ v := List.getElem?_mapIdx

theorem xorExcept_zero (bs : Bytes) (skip : Nat) : xorExcept bs 0 skip = bs := by
  refine List.ext_getElem? fun j => ?_
  simp [getElem?_xorExcept]

theorem xorExcept_xorExcept (bs : Bytes) (v : Byte) (skip : Nat) : xorExcept (xorExcept bs v skip) v skip = bs := by
  refine List.ext_getElem? fun j => ?_
  by_cases hj : j = skip <;> simp [getElem?_xorExcept, hj, Function.comp_def]

/-- Settles O54, by the law of each operation; 64 groups are 16 whole bytes. -/
theorem bitOperationLaws : Obligations.BitOperationLaws := by
  refine ⟨twoBitToBytes_bytesTo2Bit, fun g hg => bytesTo2Bit_twoBitToBytes (by rw [hg]), fun b => ?_, xorExcept_zero,
    xorExcept_xorExcept⟩
  rw [iterate_rotL1]
  exact List.map_id'' iterate_eight_rotateLeft_one b

/-! ### The operations on the source range, index by index -/

/-- `k` outputs for each input: output `j` is number `j % k` of input `j / k`. -/
theorem flatMap_map_range {α β : Type} (f : α → Nat → β) (g : Nat → α) {k : Nat} (hk : 0 < k) (n : Nat) :
    ((List.range n).map g).flatMap (fun x => (List.range k).map (f x)) =
      (List.range (k * n)).map fun j => f (g (j / k)) (j % k) := by
  induction n with
  | zero => rfl
  | succ n ih =>
    have last : ∀ j ∈ List.range k, f (g n) j = f (g ((k * n + j) / k)) ((k * n + j) % k) := by
      intro j hj
      have hj : j < k := List.mem_range.1 hj
      rw [Nat.mul_add_div hk, Nat.div_eq_of_lt hj, Nat.mul_add_mod, Nat.mod_eq_of_lt hj, Nat.add_zero]
    rw [List.range_succ, List.map_append, List.flatMap_append, ih, Nat.mul_succ, List.range_add, List.map_append,
      List.map_map]
    simpa using last

/-- Four groups for each output byte. -/
theorem twoBitToBytes_map_range (g : Nat → TwoBit) (n : Nat) :
    twoBitToBytes ((List.range (4 * n)).map g) =
      (List.range n).map fun i => joinGroups (g (4 * i)) (g (4 * i + 1)) (g (4 * i + 2)) (g (4 * i + 3)) := by
  induction n generalizing g with
  | zero => rfl
  | succ n ih =>
    have hfour : (List.range (4 * (n + 1))).map g =
        g 0 :: g 1 :: g 2 :: g 3 :: (List.range (4 * n)).map fun j => g (4 + j) := by
      rw [Nat.mul_succ, Nat.add_comm, List.range_add, List.map_append, List.map_map]
      rfl
    rw [hfour, twoBitToBytes, ih, List.range_succ_eq_map, List.map_cons, List.map_map]
    refine congrArg _ (List.map_congr_left fun i _ => ?_)
    simp only [Function.comp_apply, Nat.succ_eq_add_one, Nat.mul_add, Nat.add_assoc, Nat.add_comm 4]

/-- A group as a byte, by shift and mask. -/
theorem byteGroup_setWidth (b : Byte) (k : Nat) : (byteGroup b k).setWidth 8 = (b >>> (6 - 2 * k)) &&& 0x03#8 := by
  have hmask (x : Nat) : x &&& 3 = x % 4 := Nat.and_two_pow_sub_one_eq_mod x 2
  refine BitVec.eq_of_toNat_eq ?_
  simp only [BitVec.toNat_setWidth, byteGroup_toNat, BitVec.toNat_and, BitVec.toNat_ushiftRight, BitVec.toNat_ofNat,
    Nat.shiftRight_eq_div_pow]
  rw [hmask]
  omega

theorem byteMod4_toNat (b : Byte) : (byteMod4 b).toNat = b.toNat % 4 := BitVec.toNat_setWidth ..

theorem bitBytes_srcInput (s : State) (n : Nat) :
    (bytesToBits (srcInput s n)).map bitByte =
      (List.range (8 * n)).map fun j => if (srcByte s (j / 8)).getLsbD (7 - j % 8) then 0x01#8 else 0x00#8 := by
  rw [bytesToBits, srcInput, flatMap_map_range _ _ (by decide), List.map_map]
  rfl

theorem groupBytes_srcInput (s : State) (n : Nat) :
    (bytesTo2Bit (srcInput s n)).map (BitVec.setWidth 8) =
      (List.range (4 * n)).map fun j => (srcByte s (j / 4) >>> (6 - 2 * (j % 4))) &&& 0x03#8 := by
  rw [bytesTo2Bit, srcInput, flatMap_map_range _ _ (by decide), List.map_map]
  exact List.map_congr_left fun j _ => byteGroup_setWidth _ _

theorem joined_srcInput (s : State) (n : Nat) :
    twoBitToBytes ((srcInput s (4 * n)).map byteMod4) = (List.range n).map fun i =>
      BitVec.ofNat 8 (64 * ((srcByte s (4 * i)).toNat % 4) + 16 * ((srcByte s (4 * i + 1)).toNat % 4) +
        4 * ((srcByte s (4 * i + 2)).toNat % 4) + (srcByte s (4 * i + 3)).toNat % 4) := by
  rw [srcInput, List.map_map, twoBitToBytes_map_range]
  simp only [Function.comp_apply, joinGroups_eq_ofNat, byteMod4_toNat]

theorem xorExcept_srcInput (s : State) (n : Nat) (v : Byte) (skip : Nat) :
    xorExcept (srcInput s n) v skip =
      (List.range n).map fun j => if j = skip then srcByte s j else srcByte s j ^^^ v := by
  refine List.ext_getElem (by simp [srcInput]) fun j hj _ => ?_
  simp [xorExcept, srcInput]

/-! ### The commands (R410 to R414) -/

/-- A command without key or LEN rule succeeds with what it computes, however the output is written down, once both
ranges are in DMEM. -/
theorem computed_of_fits {i : Instr} {s : State} (f : State → Bytes) {v : Bytes} {m n : Nat}
    (hkey : needsKey i = false) (hlen : lengthError i (lenOf s) = none) (hm : srcBytes i (lenOf s) = some m)
    (hn : dstBytes i (lenOf s) = some n) (hv : f s = v) (hvn : v.length = n)
    (hsrc : Fits s (srcOf s) m) (hdst : Fits s (dstOf s) n) :
    ∃ t, guarded i s (fun s => finishWrite (f s) s) = .next t ∧ Computed s t n v := by
  subst hv
  exact computed_of_precheck f (precheck_of_fits (by simp [hkey]) hlen hm hn hsrc hdst) hvn

/-- Settles O31: eight output bytes for each source byte. -/
theorem bitsWritesOneBytePerBit : Obligations.BitsWritesOneBytePerBit := fun s =>
  computed_of_fits (fun s => (bytesToBits (srcReadLen s)).map bitByte) rfl rfl rfl rfl (bitBytes_srcInput s (lenOf s))
    (by simp)

/-- Settles O32: four output bytes for each source byte. -/
theorem to2bitWritesOneBytePerGroup : Obligations.To2bitWritesOneBytePerGroup := fun s =>
  computed_of_fits (fun s => (bytesTo2Bit (srcRead 16 s)).map (BitVec.setWidth 8)) rfl rfl rfl rfl
    (groupBytes_srcInput s 16) (by simp)

/-- Settles O33: one output byte for four source bytes. -/
theorem from2bitJoinsFourGroups : Obligations.From2bitJoinsFourGroups := fun s =>
  computed_of_fits (fun s => twoBitToBytes ((srcRead 64 s).map byteMod4)) rfl rfl rfl rfl (joined_srcInput s 16)
    (by simp)

/-- Settles O34: the model's shifts are the rotation. -/
theorem rotl1RotatesEachByte : Obligations.Rotl1RotatesEachByte := fun s =>
  computed_of_fits (fun s => rotL1 (srcRead 256 s)) rfl rfl rfl rfl
    ((rotL1_eq_map_rotateLeft (srcInput s 256)).trans (List.map_map ..)) (by simp)

/-- Settles O35: the byte at IDX is left out by its position. -/
theorem xorexcXorsAllButOneByte : Obligations.XorexcXorsAllButOneByte := fun s val idx =>
  computed_of_fits (fun s => xorExcept (srcRead 16 s) val idx) rfl rfl rfl rfl (xorExcept_srcInput s 16 val idx)
    (by simp)

end Sys2Proof.Machine
end

section
/-! SUPPORT. Inverse boxes invert, and with them S-box, GATHER and SCATTER (R454, R456 to R459). -/

namespace Sys2Proof.Machine

/-- Settles O55: every round moves its sequence into two buckets, and a seed has one bit per element and round. -/
theorem teaPartyOnlyPermutes : Obligations.TeaPartyOnlyPermutes :=
  ⟨fun _ _ _ ht => teaParty_perm (by simpa using ht), fun _ => genSBox_isPermutation, fun _ => genPBox_isPermutation⟩

/-! ### Permutations of 0..N−1 and their inverses (R456) -/

section

variable {w : Nat} {x : List (BitVec w)}

theorem length_of_isPermutation (h : isPermutation w x) : x.length = 2 ^ w := by simpa using h.length_eq

theorem mem_of_isPermutation (h : isPermutation w x) (v : BitVec w) : v ∈ x :=
  h.mem_iff.2 (List.mem_map.2 ⟨v.toNat, List.mem_range.2 v.isLt, by simp⟩)

theorem nodup_identity (w : Nat) : ((List.range (2 ^ w)).map (BitVec.ofNat w)).Nodup :=
  List.Nodup.map_on (fun a ha b hb hab => by
    have := congrArg BitVec.toNat hab
    rwa [BitVec.toNat_ofNat, BitVec.toNat_ofNat, Nat.mod_eq_of_lt (List.mem_range.1 ha),
      Nat.mod_eq_of_lt (List.mem_range.1 hb)] at this) List.nodup_range

theorem nodup_of_isPermutation (h : isPermutation w x) : x.Nodup := h.nodup_iff.2 (nodup_identity w)

/-- As many entries as there are values, and every value among them: no value comes twice. -/
theorem isPermutation_of_mem (hlen : x.length = 2 ^ w) (hmem : ∀ v, v ∈ x) : isPermutation w x :=
  ((List.subperm_of_subset (nodup_identity w) fun v _ => hmem v).perm_of_length_le (by simp [hlen])).symm

theorem toNat_getD_inverseBox (h : isPermutation w x) (v : BitVec w) :
    ((inverseBox x).getD v.toNat 0).toNat = x.idxOf v := by
  have hidx : x.idxOf v < 2 ^ w := length_of_isPermutation h ▸ List.idxOf_lt_length_of_mem (mem_of_isPermutation h v)
  simp [inverseBox, length_of_isPermutation h, v.isLt, Nat.mod_eq_of_lt hidx]

theorem inverseBox_getD_getD (h : isPermutation w x) (i : BitVec w) :
    (inverseBox x).getD (x.getD i.toNat 0).toNat 0 = i := by
  have hi : i.toNat < x.length := length_of_isPermutation h ▸ i.isLt
  refine BitVec.eq_of_toNat_eq ?_
  rw [toNat_getD_inverseBox h, List.getD_eq_getElem x 0 hi, (nodup_of_isPermutation h).idxOf_getElem]

theorem getD_inverseBox_getD (h : isPermutation w x) (i : BitVec w) :
    x.getD ((inverseBox x).getD i.toNat 0).toNat 0 = i := by
  have hi : x.idxOf i < x.length := List.idxOf_lt_length_of_mem (mem_of_isPermutation h i)
  rw [toNat_getD_inverseBox h, List.getD_eq_getElem x 0 hi, List.getElem_idxOf]

/-- A list with an entry for each `w`-bit index is known by those entries. -/
theorem ext_getD_toNat {α : Type} {d : α} {a b : List α} (ha : a.length = 2 ^ w) (hb : b.length = 2 ^ w)
    (h : ∀ i : BitVec w, a.getD i.toNat d = b.getD i.toNat d) : a = b := by
  refine List.ext_getElem (ha.trans hb.symm) fun n hna hnb => ?_
  have hn : n < 2 ^ w := ha ▸ hna
  simpa [Nat.mod_eq_of_lt hn, hna, hnb] using h (BitVec.ofNat w n)

theorem inverseBox_isPermutation (h : isPermutation w x) : isPermutation w (inverseBox x) := by
  have hlen : (inverseBox x).length = 2 ^ w := (inverseBox_length x).trans (length_of_isPermutation h)
  refine isPermutation_of_mem hlen fun v => ?_
  have hv := inverseBox_getD_getD h v
  rw [List.getD_eq_getElem _ _ (hlen ▸ BitVec.isLt _)] at hv
  exact hv ▸ List.getElem_mem _

theorem inverseBox_inverseBox (h : isPermutation w x) : inverseBox (inverseBox x) = x := by
  have hinv := inverseBox_isPermutation h
  refine ext_getD_toNat (length_of_isPermutation (inverseBox_isPermutation hinv)) (length_of_isPermutation h)
    (d := 0) fun i => ?_
  have hi := inverseBox_getD_getD hinv (x.getD i.toNat 0)
  rwa [inverseBox_getD_getD h i] at hi

end

theorem sApply_inverseBox {x : SBox} (h : isPermutation 8 x) (b : Bytes) : sApply (sApply b x) (inverseBox x) = b := by
  simp only [sApply, List.map_map]
  exact List.map_id'' (inverseBox_getD_getD h) b

/-! ### Moving groups by a P-box (R458, R459) -/

theorem moveGroups_length (f : PBoxForm) (g : List TwoBit) {p : PBox} (h : p.length = 64) :
    (moveGroups f g p).length = 64 := by
  cases f with
  | gather => simp [moveGroups, h]
  | scatter => simp [moveGroups, scatter_length]

theorem getD_moveGroups_gather (g : List TwoBit) {p : PBox} (h : p.length = 64) (i : PEntry) :
    (moveGroups .gather g p).getD i.toNat 0 = g.getD (p.getD i.toNat 0).toNat 0 := by
  simp [moveGroups, h, i.isLt]

/-- Where no destination comes twice, a group written by SCATTER is still there at the end. -/
theorem getElem?_scatter_of_mem {ps : List (PEntry × TwoBit)} {h : List TwoBit} {k : PEntry} {v : TwoBit}
    (hnodup : (ps.map Prod.fst).Nodup) (hmem : (k, v) ∈ ps) (hk : k.toNat < h.length) :
    (ps.foldl (fun h kg => h.set kg.1.toNat kg.2) h)[k.toNat]? = some v := by
  induction ps using List.reverseRecOn with
  | nil => cases hmem
  | append_singleton qs q ih =>
    obtain ⟨hqs, -, hdisj⟩ := List.nodup_append.1 (List.map_append ▸ hnodup)
    rw [List.foldl_concat]
    obtain hmem | hlast := List.mem_append.1 hmem
    · have hne : q.1 ≠ k := (hdisj k (List.mem_map_of_mem hmem) q.1 (by simp)).symm
      rw [List.getElem?_set_ne (fun he => hne (BitVec.eq_of_toNat_eq he)), ih hqs hmem]
    · obtain rfl := List.mem_singleton.1 hlast
      rw [List.getElem?_set_self (by rwa [scatter_length])]

theorem getD_moveGroups_scatter {g : List TwoBit} (hg : g.length = 64) {p : PBox} (h : isPermutation 6 p) (i : PEntry) :
    (moveGroups .scatter g p).getD (p.getD i.toNat 0).toNat 0 = g.getD i.toNat 0 := by
  have hlen := pbox_length_of_isPermutation h
  have hi : i.toNat < 64 := i.isLt
  have hmem : (p.getD i.toNat 0, g.getD i.toNat 0) ∈ p.zip g :=
    List.mem_iff_getElem.2 ⟨i.toNat, by simp [hlen, hg, hi], by simp [hlen, hg, hi]⟩
  have hnodup : ((p.zip g).map Prod.fst).Nodup := by
    rw [List.map_fst_zip (by rw [hlen, hg])]
    exact nodup_of_isPermutation h
  have hdst : (p.getD i.toNat 0).toNat < (List.replicate 64 (0 : TwoBit)).length :=
    List.length_replicate.symm ▸ (p.getD i.toNat 0).isLt
  rw [List.getD_eq_getElem?_getD, moveGroups, getElem?_scatter_of_mem hnodup hmem hdst, Option.getD_some]

/-- Both forms move the same groups, seen from the source or from the destination. -/
theorem moveGroups_scatter_eq_gather {g : List TwoBit} (hg : g.length = 64) {p : PBox} (h : isPermutation 6 p) :
    moveGroups .scatter g p = moveGroups .gather g (inverseBox p) := by
  have hlen := pbox_length_of_isPermutation h
  have hinv := pbox_length_of_isPermutation (inverseBox_isPermutation h)
  refine ext_getD_toNat (w := 6) (d := 0) (moveGroups_length _ g hlen) (moveGroups_length _ g hinv) fun i => ?_
  have hi := getD_moveGroups_scatter hg h ((inverseBox p).getD i.toNat 0)
  rwa [getD_inverseBox_getD h, ← getD_moveGroups_gather g hinv] at hi

theorem moveGroups_gather_inverseBox {g : List TwoBit} (hg : g.length = 64) {p : PBox} (h : isPermutation 6 p) :
    moveGroups .gather (moveGroups .gather g p) (inverseBox p) = g := by
  have hlen := pbox_length_of_isPermutation h
  have hinv := pbox_length_of_isPermutation (inverseBox_isPermutation h)
  refine ext_getD_toNat (w := 6) (d := 0) (moveGroups_length _ _ hinv) hg fun i => ?_
  rw [getD_moveGroups_gather _ hinv, getD_moveGroups_gather g hlen, getD_inverseBox_getD h]

theorem moveGroups_inverseBox (f : PBoxForm) {g : List TwoBit} (hg : g.length = 64) {p : PBox}
    (h : isPermutation 6 p) : moveGroups f (moveGroups f g p) (inverseBox p) = g := by
  have hinv := inverseBox_isPermutation h
  cases f with
  | gather => exact moveGroups_gather_inverseBox hg h
  | scatter =>
    rw [moveGroups_scatter_eq_gather hg h, moveGroups_scatter_eq_gather (moveGroups_length _ g
      (pbox_length_of_isPermutation hinv)) hinv, moveGroups_gather_inverseBox hg hinv]

theorem pApply_inverseBox (f : PBoxForm) {p : PBox} (h : isPermutation 6 p) {b : Bytes} (hb : b.length = 16) :
    pApply f (pApply f b p) (inverseBox p) = b := by
  have hg : (bytesTo2Bit b).length = 64 := by simp [hb]
  have hmoved := moveGroups_length f (bytesTo2Bit b) (pbox_length_of_isPermutation h)
  rw [pApply, pApply, bytesTo2Bit_twoBitToBytes (by rw [hmoved]), moveGroups_inverseBox f hg h,
    twoBitToBytes_bytesTo2Bit]

theorem pApply_gather_eq_scatter_inverseBox {p : PBox} (h : isPermutation 6 p) {b : Bytes} (hb : b.length = 16) :
    pApply .gather b p = pApply .scatter b (inverseBox p) := by
  rw [pApply, pApply, moveGroups_scatter_eq_gather (by simp [hb]) (inverseBox_isPermutation h),
    inverseBox_inverseBox h]

/-- Settles O56: SCATTER is GATHER with the inverse box, so one law of inverses serves both forms. -/
theorem inverseBoxesInvert : Obligations.InverseBoxesInvert :=
  ⟨fun _ _ h i => ⟨inverseBox_getD_getD h i, getD_inverseBox_getD h i⟩,
    fun f _ _ h hb => ⟨pApply_inverseBox f h hb, pApply_gather_eq_scatter_inverseBox h hb⟩,
    fun _ b h => sApply_inverseBox h b⟩

end Sys2Proof.Machine
end

section
/-! SUPPORT. Equal bits move nothing, so the zero key gives a zero schedule, identity boxes and the identity cipher
(R455, R510, R557). -/

namespace Sys2Proof.Machine

/-! ### TeaParty on equal bits (R455) -/

theorem bucket_replicate {α : Type} (want b : Bool) (seq : List α) :
    bucket want seq (List.replicate seq.length b) = if b = want then seq else [] := by
  induction seq with
  | nil => simp [bucket]
  | cons x xs ih =>
    rw [List.length_cons, List.replicate_succ, bucket, ih]
    split <;> rfl

theorem teaRound_replicate {α : Type} (seq : List α) (b : Bool) :
    teaRound seq (List.replicate seq.length b) = seq := by
  cases b <;> simp [teaRound, bucket_replicate]

theorem teaParty_replicate {α : Type} {rounds n : Nat} {seq : List α} (b : Bool) (h : n = seq.length * rounds) :
    teaParty rounds seq (List.replicate n b) = seq := by
  induction rounds generalizing n with
  | zero => rfl
  | succ r ih =>
    rw [Nat.mul_succ] at h
    have hbits : min seq.length n = seq.length := by omega
    rw [teaParty, List.take_replicate, List.drop_replicate, hbits, teaRound_replicate, ih (by omega)]

theorem bytesToBits_zeros (n : Nat) : bytesToBits (List.replicate n 0) = List.replicate (n * 8) false := by
  have hbyte : (List.range 8).map (byteBit 0) = List.replicate 8 false := by decide
  rw [bytesToBits, List.flatMap_replicate, hbyte, List.flatten_replicate_replicate]

theorem genSBox_zeros : genSBox (List.replicate 1216 0) = identitySBox := by
  rw [genSBox, bytesToBits_zeros, teaParty_replicate _ (by simp)]

theorem genPBox_zeros : genPBox (List.replicate 320 0) = identityPBox := by
  rw [genPBox, bytesToBits_zeros, teaParty_replicate _ (by simp)]

/-! ### The identity boxes change nothing (R456 to R458) -/

theorem getD_identity (w : Nat) (i : BitVec w) : ((List.range (2 ^ w)).map (BitVec.ofNat w)).getD i.toNat 0 = i := by
  simp [i.isLt]

theorem getD_identitySBox (b : Byte) : identitySBox.getD b.toNat 0 = b := getD_identity 8 b

theorem getD_identityPBox (k : PEntry) : identityPBox.getD k.toNat 0 = k := getD_identity 6 k

/-- A box whose entries stand at their own positions is its own inverse. -/
theorem inverseBox_of_getD_eq {w : Nat} {x : List (BitVec w)} (h : isPermutation w x)
    (hx : ∀ i : BitVec w, x.getD i.toNat 0 = i) : inverseBox x = x := by
  refine ext_getD_toNat (length_of_isPermutation (inverseBox_isPermutation h)) (length_of_isPermutation h)
    (d := 0) fun i => ?_
  rw [hx i, ← hx ((inverseBox x).getD i.toNat 0), getD_inverseBox_getD h]

theorem inverseBox_identitySBox : inverseBox identitySBox = identitySBox :=
  inverseBox_of_getD_eq identitySBox_isPermutation getD_identitySBox

theorem inverseBox_identityPBox : inverseBox identityPBox = identityPBox :=
  inverseBox_of_getD_eq identityPBox_isPermutation getD_identityPBox

theorem sApply_identitySBox (b : Bytes) : sApply b identitySBox = b := List.map_id'' getD_identitySBox b

theorem moveGroups_identityPBox (f : PBoxForm) {g : List TwoBit} (hg : g.length = 64) :
    moveGroups f g identityPBox = g := by
  have gather : moveGroups .gather g identityPBox = g := by
    refine ext_getD_toNat (w := 6) (d := 0) (moveGroups_length _ g identityPBox_length) hg fun i => ?_
    rw [getD_moveGroups_gather g identityPBox_length, getD_identityPBox]
  cases f with
  | gather => exact gather
  | scatter => rw [moveGroups_scatter_eq_gather hg identityPBox_isPermutation, inverseBox_identityPBox, gather]

theorem pApply_identityPBox (f : PBoxForm) {b : Bytes} (hb : b.length = 16) : pApply f b identityPBox = b := by
  rw [pApply, moveGroups_identityPBox f (by simp [hb]), twoBitToBytes_bytesTo2Bit]

/-! ### The cipher of a zero schedule (R557) -/

theorem take_zeros {m n : Nat} (h : m ≤ n) : (List.replicate n (0 : Byte)).take m = List.replicate m 0 := by
  rw [List.take_replicate, Nat.min_eq_left h]

theorem engineOf_zeros : engineOf (List.replicate 2048 0) =
    { sb := identitySBox, pb := identityPBox, xa := List.replicate 256 0, xb := List.replicate 256 0 } := by
  simp only [engineOf, xorStreamA, xorStreamB, List.drop_replicate, Nat.reduceSub, take_zeros, Nat.reduceLeDiff,
    le_refl, genSBox_zeros, genPBox_zeros]

theorem getD_zeros (n i : Nat) : (List.replicate n (0 : Byte)).getD i 0 = 0 := by
  rw [List.getD_eq_getElem?_getD, List.getElem?_replicate]
  split <;> rfl

theorem xor_getD_zeros (x : Byte) (n i : Nat) : x ^^^ (List.replicate n (0 : Byte)).getD i 0 = x := by
  rw [getD_zeros]
  exact BitVec.xor_zero

theorem encBytes_zeros (c : Nat) (b : Bytes) : encBytes (engineOf (List.replicate 2048 0)) c b = b := by
  refine List.ext_getElem (encBytes_length ..) fun j _ _ => ?_
  simp only [encBytes, engineOf_zeros, List.getElem_mapIdx, xor_getD_zeros, getD_identitySBox]

theorem decBytes_zeros (c : Nat) (b : Bytes) :
    decBytes (engineOf (List.replicate 2048 0)) (inverseBox identitySBox) c b = b := by
  rw [inverseBox_identitySBox]
  refine List.ext_getElem (decBytes_length ..) fun j _ _ => ?_
  simp only [decBytes, engineOf_zeros, List.getElem_mapIdx, xor_getD_zeros, getD_identitySBox]

theorem encBlock_zeros (f : PBoxForm) {b : Bytes} (hb : b.length = 16) :
    encBlock f (engineOf (List.replicate 2048 0)) b = b := by
  refine List.foldl_fixed' (fun c => ?_) _
  rw [encCycle, encBytes_zeros, engineOf_zeros, pApply_identityPBox f hb, ite_self]

theorem decBlock_zeros (f : PBoxForm) {b : Bytes} (hb : b.length = 16) :
    decBlock f (engineOf (List.replicate 2048 0)) (inverseBox identitySBox) (inverseBox identityPBox) b = b := by
  refine List.foldl_fixed' (fun c => ?_) _
  rw [decCycle, decBytes_zeros, inverseBox_identityPBox, pApply_identityPBox f hb, ite_self]

/-! ### The schedule of the zero key (R510) -/

theorem block_zeros {m n : Nat} (h : 16 * m + 16 ≤ n) : block (List.replicate n 0) m = List.replicate 16 0 := by
  rw [block, List.drop_replicate, take_zeros (by omega)]

theorem blocks_zeros {m n : Nat} (h : 16 * m ≤ n) :
    blocks m (List.replicate n 0) = List.replicate m (List.replicate 16 0) := by
  refine List.eq_replicate_iff.2 ⟨blocks_length .., fun x hx => ?_⟩
  obtain ⟨k, hk, rfl⟩ := List.mem_map.1 hx
  have hk : k < m := List.mem_range.1 hk
  exact block_zeros (by omega)

theorem mixPass_zeros (f : PBoxForm) : mixPass f (List.replicate 2048 0) = List.replicate 2048 0 := by
  have hzero := pApply_identityPBox f (b := List.replicate 16 0) List.length_replicate
  have hmoved : (blocks 128 (List.replicate 2048 0)).flatMap (fun b => pApply f b identityPBox) =
      List.replicate 2048 0 := by
    rw [blocks_zeros le_rfl, List.flatMap_replicate, hzero, List.flatten_replicate_replicate]
  simp only [mixPass, take_zeros, Nat.reduceLeDiff, genPBox_zeros, hmoved, genSBox_zeros, sApply_identitySBox]

theorem rotL1_zeros (n : Nat) : rotL1 (List.replicate n 0) = List.replicate n 0 := List.map_replicate

theorem rotations_zeros (m n : Nat) : rotations m (List.replicate n 0) = List.replicate (m * n) 0 := by
  induction m with
  | zero => simp [rotations]
  | succ m ih => rw [rotations, rotL1_zeros, ih, List.replicate_append_replicate, Nat.succ_mul, Nat.add_comm]

theorem xorPasses_zeros : xorPasses (List.replicate 16 0) = List.replicate 256 0 := by
  simp only [xorPasses, getD_zeros, xorExcept_zero]
  rw [List.flatMap_def, List.map_const', List.length_range, List.flatten_replicate_replicate]

theorem stageA_zeros (f : PBoxForm) : stageA f (List.replicate 16 0) = List.replicate 2048 0 := by
  rw [stageA, xorPasses_zeros, rotations_zeros, mixPass_zeros, mixPass_zeros]

theorem xorBytes_zeros (n : Nat) : xorBytes (List.replicate n 0) (List.replicate n 0) = List.replicate n 0 := by
  simp only [xorBytes, List.zipWith_replicate, Nat.min_self, BitVec.ofNat_eq_ofNat, BitVec.xor_self]

theorem foldl_xorBytes_replicate {z : Bytes} (hz : xorBytes z z = z) (n : Nat) :
    (List.replicate n z).foldl xorBytes z = z := by
  induction n with
  | zero => rfl
  | succ n ih => rw [List.replicate_succ, List.foldl_cons, hz, ih]

theorem foldBlocks_zeros : foldBlocks (List.replicate 2048 0) = List.replicate 16 0 := by
  rw [foldBlocks, blocks_zeros le_rfl, foldl_xorBytes_replicate (xorBytes_zeros 16)]

theorem cbcChain_replicate {enc : Bytes → Bytes} {z : Bytes} (hz : xorBytes z z = z) (henc : enc z = z) (n : Nat) :
    cbcChain enc z (List.replicate n z) = (List.replicate n z).flatten := by
  induction n with
  | zero => rfl
  | succ n ih => rw [List.replicate_succ, cbcChain, hz, henc, ih, List.flatten_cons]

theorem stageB_zeros (f : PBoxForm) : stageB f (List.replicate 16 0) = List.replicate 2048 0 := by
  have henc := encBlock_zeros f (b := List.replicate 16 0) List.length_replicate
  have hiv : block (List.replicate 2048 0) 127 = List.replicate 16 0 := block_zeros le_rfl
  have hblocks := blocks_zeros (m := 128) (n := 2048) le_rfl
  simp only [stageB, stageA_zeros, foldBlocks_zeros, hiv, hblocks, cbcChain_replicate (xorBytes_zeros 16) henc,
    List.flatten_replicate_replicate]
  exact List.drop_left' List.length_replicate

theorem derive_zeros (f : PBoxForm) : derive f (List.replicate 16 0) =
    { ks := List.replicate 2048 0, sb := identitySBox, pb := identityPBox } := by
  simp only [derive, stageB_zeros, engineOf_zeros]

/-- Settles O58: zero seeds give identity boxes, and those keep zero buffers and every block. -/
theorem zeroKeyGivesTheIdentityCipher : Obligations.ZeroKeyGivesTheIdentityCipher := by
  refine ⟨fun n b => ?_, fun f => ⟨stageA_zeros f, derive_zeros f, fun b hb => ?_⟩⟩
  · simpa using teaRound_replicate (List.range n) b
  · exact ⟨encBlock_zeros f hb, decBlock_zeros f hb⟩

end Sys2Proof.Machine
end

section
/-! SUPPORT. The commands of the key schedule, and buffers of equal copies (R501, R502, R511, R520 to R523). -/

namespace Sys2Proof.Machine

open Sys2Proof.Claims

/-! ### Fold, byte by byte (R502) -/

theorem block_map_range (g : Nat → Byte) {m k : Nat} (h : 16 * m + 16 ≤ k) :
    block ((List.range k).map g) m = (List.range 16).map fun j => g (16 * m + j) := by
  refine List.ext_getElem (by rw [block_length _ _ (by simpa using h)]; simp) fun j _ _ => ?_
  simp [block]

/-- Byte `j` of the XOR of blocks is the XOR of their bytes `j`. -/
theorem foldl_xorBytes_blocks_map_range (g : Nat → Byte) {n k : Nat} (h : 16 * n ≤ k) :
    (blocks n ((List.range k).map g)).foldl xorBytes (List.replicate 16 0) =
      (List.range 16).map fun j => (List.range n).foldl (fun acc m => acc ^^^ g (16 * m + j)) 0 := by
  induction n with
  | zero => rfl
  | succ n ih =>
    rw [blocks] at ih ⊢
    rw [List.range_succ, List.map_append, List.map_singleton, List.foldl_concat, ih (by omega),
      block_map_range g (by omega), xorBytes, List.zipWith_map, List.zipWith_self]
    simp only [List.foldl_concat]

theorem foldBlocks_srcInput (s : State) :
    foldBlocks (srcInput s 2048) = (List.range 16).map fun j =>
      (List.range 128).foldl (fun acc m => acc ^^^ srcByte s (16 * m + j)) 0 :=
  foldl_xorBytes_blocks_map_range (srcByte s) le_rfl

/-! ### MIX, FOLD, KISS and KISS2 (R520 to R523) -/

/-- The source bytes a command reads are those the statements speak of. -/
theorem srcRead_eq_srcInput (n : Nat) (s : State) : srcRead n s = srcInput s n := rfl

/-- Settles O37: with both ranges in DMEM the checks pass, and the output is the function's of the source bytes. -/
theorem keyScheduleCommandsWriteTheirFunction : Obligations.KeyScheduleCommandsWriteTheirFunction := by
  intro s
  have h16 : (srcInput s 16).length = 16 := srcRead_length 16 s
  have h2048 : (srcInput s 2048).length = 2048 := srcRead_length 2048 s
  refine ⟨?mix, ?fold, ?kiss, ?kiss2⟩
  case mix =>
    exact computed_of_fits (fun s => mixPass s.params.pboxForm (srcRead 2048 s)) rfl rfl rfl rfl
      (by rw [srcRead_eq_srcInput]) (mixPass_length _ _ h2048)
  case fold =>
    exact computed_of_fits (fun s => foldBlocks (srcRead 2048 s)) rfl rfl rfl rfl (foldBlocks_srcInput s) (by simp)
  case kiss =>
    exact computed_of_fits (fun s => stageA s.params.pboxForm (srcRead 16 s)) rfl rfl rfl rfl
      (by rw [srcRead_eq_srcInput]) (stageA_length _ _ h16)
  case kiss2 =>
    exact computed_of_fits (fun s => stageB s.params.pboxForm (srcRead 16 s)) rfl rfl rfl rfl
      (by rw [srcRead_eq_srcInput]) (stageB_length _ _ h16)

/-! ### Buffers of equal copies (R511) -/

theorem blocks_append {a : Bytes} {m : Nat} (ha : a.length = 16 * m) (n : Nat) (b : Bytes) :
    blocks (m + n) (a ++ b) = blocks m a ++ blocks n b := by
  rw [blocks, List.range_add, List.map_append, List.map_map]
  refine congrArg₂ _ (List.map_congr_left fun k hk => ?_) (List.map_congr_left fun k _ => ?_)
  · have hk : k < m := List.mem_range.1 hk
    rw [block, block, List.drop_append_of_le_length (by omega), List.take_append_of_le_length]
    rw [List.length_drop]
    omega
  · rw [Function.comp_apply, block, block, Nat.mul_add, ← ha, List.drop_length_add_append]

theorem blocks_copies {c : Bytes} {m : Nat} (hc : c.length = 16 * m) (k : Nat) :
    blocks (m * k) (List.replicate k c).flatten = (List.replicate k (blocks m c)).flatten := by
  induction k with
  | zero => rfl
  | succ k ih =>
    rw [Nat.mul_succ, Nat.add_comm, List.replicate_succ, List.flatten_cons, blocks_append hc, ih, List.replicate_succ,
      List.flatten_cons]

theorem flatMap_copies {α β : Type} (f : α → List β) (l : List α) (k : Nat) :
    (List.replicate k l).flatten.flatMap f = (List.replicate k (l.flatMap f)).flatten := by
  simp only [List.flatMap_def, List.map_flatten, List.map_replicate, List.flatten_flatten]

theorem sApply_copies (c : Bytes) (x : SBox) (k : Nat) :
    sApply (List.replicate k c).flatten x = (List.replicate k (sApply c x)).flatten := by
  simp only [sApply, List.map_flatten, List.map_replicate]

/-- A mix pass moves the groups of each block by one P-box and substitutes every byte by one S-box (R501). -/
theorem mixPass_eq_sApply_flatMap (f : PBoxForm) {buf : Bytes} (h : buf.length = 2048) :
    ∃ (p : PBox) (x : SBox), p.length = 64 ∧ mixPass f buf = sApply ((blocks 128 buf).flatMap (pApply f · p)) x := by
  refine ⟨_, _, ?_, rfl⟩
  exact genPBox_length _ (by simp [h])

/-- Both boxes serve every copy, and the P-box acts inside a block. -/
theorem mixPass_copies (f : PBoxForm) {c : Bytes} (hc : c.length = 256) :
    ∃ d : Bytes, d.length = 256 ∧ mixPass f (List.replicate 8 c).flatten = (List.replicate 8 d).flatten := by
  have hblocks := blocks_copies (m := 16) hc 8
  obtain ⟨p, x, hp, hmix⟩ := mixPass_eq_sApply_flatMap f (buf := (List.replicate 8 c).flatten) (by simp [hc])
  refine ⟨sApply ((blocks 16 c).flatMap (pApply f · p)) x, ?_, ?_⟩
  · rw [sApply_length, flatMap_length_16 _ _ fun b _ => pApply_length f b p hp, blocks_length]
  · rw [hmix, hblocks, flatMap_copies, sApply_copies]

/-! ### Fold of an even number of copies (R511) -/

theorem xorBytes_right_comm (a b c : Bytes) : xorBytes (xorBytes a b) c = xorBytes (xorBytes a c) b := by
  refine List.ext_getElem (by simp only [xorBytes_length]; ac_rfl) fun j _ _ => ?_
  simp only [xorBytes, List.getElem_zipWith]
  ac_rfl

theorem xorBytes_xorBytes_cancel {a b : Bytes} (h : a.length ≤ b.length) : xorBytes (xorBytes a b) b = a := by
  refine List.ext_getElem (by simp [h]) fun j _ _ => ?_
  simp [xorBytes]

/-- What is XORed in twice is gone: the two uses of a block come together and cancel. -/
theorem foldl_xorBytes_twice {a : Bytes} {l : List Bytes} (h : ∀ x ∈ l, a.length ≤ x.length) :
    l.foldl xorBytes (l.foldl xorBytes a) = a := by
  have : RightCommutative xorBytes := ⟨xorBytes_right_comm⟩
  induction l with
  | nil => rfl
  | cons x xs ih =>
    obtain ⟨hx, hxs⟩ := List.forall_mem_cons.1 h
    calc (x :: xs).foldl xorBytes ((x :: xs).foldl xorBytes a)
      _ = xs.foldl xorBytes (xs.foldl xorBytes (xorBytes (xorBytes a x) x)) := by
        rw [List.foldl_cons, List.foldl_cons, ← List.foldl_cons_eq_apply_foldl (v := xorBytes),
          List.foldl_cons]
      _ = a := by rw [xorBytes_xorBytes_cancel hx, ih hxs]

theorem foldl_xorBytes_even_copies {a : Bytes} {l : List Bytes} (h : ∀ x ∈ l, a.length ≤ x.length) (k : Nat) :
    (List.replicate (2 * k) l).flatten.foldl xorBytes a = a := by
  induction k with
  | zero => rfl
  | succ k ih =>
    rw [Nat.mul_succ, List.replicate_succ, List.replicate_succ, List.flatten_cons, List.flatten_cons,
      List.foldl_append, List.foldl_append, foldl_xorBytes_twice h, ih]

theorem foldBlocks_copies {c : Bytes} (hc : c.length = 256) :
    foldBlocks (List.replicate 8 c).flatten = List.replicate 16 0 := by
  have hblocks := blocks_copies (m := 16) hc 8
  rw [foldBlocks, hblocks]
  refine foldl_xorBytes_even_copies (fun x hx => ?_) 4
  rw [mem_blocks_length (by omega) hx, List.length_replicate]

/-- Settles O59: a mix pass treats the copies alike, and an even number of copies cancels. -/
theorem periodicBuffersStayPeriodic : Obligations.PeriodicBuffersStayPeriodic := fun f _ hc =>
  ⟨mixPass_copies f hc, foldBlocks_copies hc⟩

end Sys2Proof.Machine
end

section
/-! SUPPORT. A block is encrypted cycle by cycle and decrypted in the opposite order, each cycle undoing its own
(R551 to R553), and the result of ENCBLK (R555). -/

namespace Sys2Proof.Machine

/-- Settles O24: with a key and both ranges in DMEM the checks pass, and the P-box gives a whole block. -/
theorem encblkEncryptsOneBlock : Obligations.EncblkEncryptsOneBlock := by
  intro s hp hset hsrc hdst
  exact computed_of_precheck (fun s => sessionEnc s (srcRead 16 s))
    (precheck_of_fits (fun _ => hset) rfl rfl rfl hsrc hdst) (sessionEnc_length hp (srcRead_length 16 s))

/-- A fold is undone from its last step backwards, where each step is undone on what satisfies a property every step
keeps. -/
theorem foldl_reverse_foldl_cancel {α β : Type} (P : α → Prop) {f g : α → β → α} (hf : ∀ a b, P a → P (f a b))
    (hg : ∀ a b, P a → g (f a b) b = a) (l : List β) {a : α} (h : P a) : l.reverse.foldl g (l.foldl f a) = a := by
  induction l generalizing a with
  | nil => rfl
  | cons x xs ih => rw [List.reverse_cons, List.foldl_concat, List.foldl_cons, ih (hf a x h), hg a x h]

/-- Both byte steps XOR the same two stream bytes, in opposite order around the S-box. -/
theorem decBytes_encBytes {e : Engine} (hsb : isPermutation 8 e.sb) (c : Nat) (b : Bytes) :
    decBytes e (inverseBox e.sb) c (encBytes e c b) = b := by
  refine List.ext_getElem (by simp) fun j _ _ => ?_
  simp only [decBytes, encBytes, List.getElem_mapIdx, xor_cancel_right, inverseBox_getD_getD hsb]

theorem encCycle_length (f : PBoxForm) {e : Engine} (hp : e.pb.length = 64) (c : Nat) {b : Bytes} (hb : b.length = 16) :
    (encCycle f e c b).length = 16 := by
  rw [encCycle, encBytes_length]
  split
  · exact pApply_length f b e.pb hp
  · exact hb

/-- The P-box comes first in an even cycle and its inverse last. -/
theorem decCycle_encCycle (f : PBoxForm) {e : Engine} (hsb : isPermutation 8 e.sb) (hpb : isPermutation 6 e.pb)
    (c : Nat) {b : Bytes} (hb : b.length = 16) :
    decCycle f e (inverseBox e.sb) (inverseBox e.pb) c (encCycle f e c b) = b := by
  rw [decCycle, encCycle, decBytes_encBytes hsb]
  split
  · exact pApply_inverseBox f hpb hb
  · rfl

/-- Settles O57: the cycles of decryption undo those of encryption, the last one first. -/
theorem decBlockUndoesEncBlock : Obligations.DecBlockUndoesEncBlock := fun f _ _ hsb hpb hb =>
  foldl_reverse_foldl_cancel (fun x : Bytes => x.length = 16)
    (fun _ c => encCycle_length f (pbox_length_of_isPermutation hpb) (c + 1))
    (fun _ c => decCycle_encCycle f hsb hpb (c + 1)) (List.range 16) hb

end Sys2Proof.Machine
end

section
/-! SUPPORT. The generator: what `Draw` and `Gloria()` are in terms of single draws, which commands draw, and the results
of GENKEY, GLORIA and ENCRYPT.CBC (R601 to R604, R610, R654, R660, R705). -/

namespace Sys2Proof.Machine

open Sys2Proof.Claims

/-! ### Draws (R601, R602) -/

/-- Byte `i` is drawn in the state that `i` draws before it have left. -/
theorem draw_eq (n : Nat) (g : PrngState) :
    draw Config.prngNext n g = ((List.range n).map fun i => (Config.prngNext (prngAfter i g)).1, prngAfter n g) := by
  induction n generalizing g with
  | zero => rfl
  | succ n ih =>
    rw [draw, ih, List.range_succ_eq_map, List.map_cons, List.map_map]
    rfl

theorem gloriaBlock_eq (s : State) : gloriaBlock s = gloriaOf s.params.pboxForm s.prng := by
  rw [gloriaBlock, gloria_fst, draw_eq, gloriaOf]

theorem afterGloria_prng_eq (s : State) : (afterGloria s).prng = prngAfter 2048 s.prng := by
  rw [afterGloria_prng, gloria_snd, draw_eq]

/-! ### Which commands draw (R604, R804) -/

/-- The outcome of a command begun in `s` is a success that leaves the generator at `g`, or an error that leaves it as
it was. -/
def EndsWithPrng (s : State) (g : PrngState) (r : Result) : Prop :=
  ∃ t, r = .next t ∧ t.prng = if t.regs.err = .ok then g else s.prng

section
variable {s : State} {g : PrngState}

theorem EndsWithPrng.prng_eq {t : State} (h : EndsWithPrng s g (.next t)) :
    t.prng = if t.regs.err = .ok then g else s.prng := by
  obtain ⟨u, hu, hprng⟩ := h
  cases hu
  exact hprng

theorem EndsWithPrng.of_fail {c : StatusCode} (hc : c ≠ .ok) : EndsWithPrng s g (fail c s) :=
  ⟨_, rfl, (if_neg hc).symm⟩

theorem EndsWithPrng.of_finish (n : Nat) {u : State} (hu : u.prng = g) : EndsWithPrng s g (finish n u) :=
  ⟨_, rfl, hu⟩

theorem EndsWithPrng.of_finishWrite (v : Bytes) {u : State} (hu : u.prng = g) : EndsWithPrng s g (finishWrite v u) :=
  .of_finish v.length hu

theorem EndsWithPrng.of_finishDecrypt (plain : Option Bytes) (s : State) :
    EndsWithPrng s s.prng (finishDecrypt plain s) := by
  cases plain with
  | none => exact .of_fail (by decide)
  | some p => exact .of_finishWrite p rfl

theorem EndsWithPrng.of_guarded {i : Instr} {effect : State → Result} (h : EndsWithPrng s g (effect s)) :
    EndsWithPrng s g (guarded i s effect) := by
  cases hp : precheck i s with
  | some c => exact guarded_error effect hp ▸ EndsWithPrng.of_fail fun hc => precheck_ne_ok i s (hc ▸ hp)
  | none => rwa [guarded_pass effect hp]

end

theorem exec_endsWithPrng_of_drawing (s : State) :
    ∀ i ∈ drawingCommands, EndsWithPrng s (afterGloria s).prng (exec i s) := by
  simp only [drawingCommands, List.forall_mem_cons, exec, execGenkey, execEncryptCbc, execGloria]
  exact ⟨.of_guarded (.of_finish 0 rfl), .of_guarded (.of_finishWrite _ rfl), .of_guarded (.of_finishWrite _ rfl), nofun⟩

/-- The other commands, grouped by how they end. -/
theorem exec_endsWithPrng_of_not_drawing {i : Instr} (hi : i ∉ drawingCommands) (s : State) :
    EndsWithPrng s s.prng (exec i s) := by
  cases i with
  | genkey | encryptCbc | gloria => exact absurd (by decide) hi
  | nop | setkey | setkeystr =>
    simp only [exec, execNop, execSetkey, execSetkeystr]
    exact .of_guarded (.of_finish 0 rfl)
  | setkeyhex =>
    simp only [exec, execSetkeyhex]
    refine .of_guarded ?_
    split
    · exact .of_finish 0 rfl
    · exact .of_fail (by decide)
  | decryptEcb | decryptCbc =>
    simp only [exec, execDecryptEcb, execDecryptCbc]
    exact .of_guarded (.of_finishDecrypt _ s)
  | encryptEcb | encblk | decblk | boxgens | boxgenp | mix | fold | kiss | kiss2 | bits | to2bit | from2bit | rotl1
  | xorexc val idx =>
    simp only [exec, execEncryptEcb, execEncblk, execDecblk, execBoxgens, execBoxgenp, execMix, execFold, execKiss,
      execKiss2, execBits, execTo2bit, execFrom2bit, execRotl1, execXorexc]
    exact .of_guarded (.of_finishWrite _ rfl)

/-- Settles O17: an error leaves the generator as it was, and a success moves it in three commands only. -/
theorem onlyThreeCommandsDraw : Obligations.OnlyThreeCommandsDraw := by
  intro i s t ht
  by_cases hi : i ∈ drawingCommands
  · have hprng := (ht ▸ exec_endsWithPrng_of_drawing s i hi).prng_eq
    simpa only [hi, true_and, afterGloria_prng_eq] using hprng
  · have hprng := (ht ▸ exec_endsWithPrng_of_not_drawing hi s).prng_eq
    simpa only [hi, false_and, if_false, ite_self] using hprng

/-! ### GENKEY, GLORIA and ENCRYPT.CBC (R610, R654, R660, R705) -/

/-- Settles O23: GENKEY makes no check, and commits the block of `Gloria()` as the key. -/
theorem genkeyEstablishesGloria : Obligations.GenkeyEstablishesGloria := by
  intro s
  rw [← gloriaBlock_eq, ← afterGloria_prng_eq, ← commitSession_derive]
  exact ⟨_, rfl, rfl, rfl, rfl, fun _ => rfl, rfl, rfl, rfl, rfl, rfl, rfl⟩

/-- A command that draws and whose checks pass: what it writes is computed from the state before its `Gloria()`. -/
theorem wroteAtDst_of_draw {i : Instr} {s : State} (f : State → Bytes) {v : Bytes} {n : Nat}
    (hpass : precheck i s = none) (hv : f s = v) (hn : v.length = n) :
    ∃ t, guarded i s (fun s => finishWrite (f s) (afterGloria s)) = .next t ∧ WroteAtDst s t n v ∧
      t.session = s.session ∧ t.prng = prngAfter 2048 s.prng := by
  subst hv
  rw [guarded_pass _ hpass, ← afterGloria_prng_eq]
  exact finishWrite_wroteAtDst (SameFrame.refl s).afterGloria rfl hn

/-- Settles O26: GLORIA names no source, so its one check is the range at DST. -/
theorem gloriaWritesOneBlock : Obligations.GloriaWritesOneBlock := by
  intro s hdst
  have hrange : rangeOk s.params.dmemBytes s.pending.dst (some 16) = true := by simpa [rangeOk, inRange] using hdst
  have hpass : precheck .gloria s = none := precheck_eq_none.2 ⟨nofun, rfl, rfl, hrange⟩
  exact wroteAtDst_of_draw gloriaBlock hpass (gloriaBlock_eq s) (gloriaBlock_eq s ▸ gloriaBlock_length s)

/-- Settles O28: with a key and both ranges in DMEM the checks pass, and the IV is the block of `Gloria()`. -/
theorem encryptCbcWritesIvAndChain : Obligations.EncryptCbcWritesIvAndChain := by
  intro s hp hset hsrc hdst
  have hcount : 16 + lenOf s + 16 - lenOf s % 16 = lenOf s + 16 - lenOf s % 16 + 16 := by omega
  rw [hcount] at hdst ⊢
  have hpass : precheck .encryptCbc s = none := precheck_of_fits (fun _ => hset) rfl rfl rfl hsrc hdst
  have hlen := cbcEncrypt_length (fun b hb => sessionEnc_length hp hb) (srcReadLen s) (gloriaBlock_length s)
  rw [srcReadLen_length] at hlen
  rw [← gloriaBlock_eq]
  exact wroteAtDst_of_draw (fun s => cbcEncrypt (sessionEnc s) (srcReadLen s) (gloriaBlock s)) hpass rfl hlen

end Sys2Proof.Machine
end

section
/-! SUPPORT. Padding is undone by unpadding, blocks joined are the blocks again, and with them ECB and CBC decryption undo
encryption (R650 to R656, R658). -/

namespace Sys2Proof.Machine

open Sys2Proof.Claims

/-! ### Padding (R651, R652) -/

theorem unpad_eq (q : Bytes) :
    unpad q = if q.length < padCount q then none else some (q.take (q.length - padCount q)) := rfl

/-- The last byte of a padded string is its pad length, a number from 1 to 16. -/
theorem padCount_pad (d : Bytes) : padCount (pad d) = padLength d := by
  have hpos : 0 < padLength d := by unfold padLength; omega
  have hbyte : padLength d < 256 := by unfold padLength; omega
  rw [padCount, pad, List.length_append, List.length_replicate, List.getD_append_right _ _ _ _ (by omega),
    List.getD_replicate _ (by omega), BitVec.toNat_ofNat, Nat.mod_eq_of_lt hbyte]

theorem unpad_pad (d : Bytes) : unpad (pad d) = some d := by
  have hlen : (pad d).length = d.length + padLength d := by simp [pad]
  rw [unpad_eq, padCount_pad, if_neg (by omega), hlen, Nat.add_sub_cancel, pad, List.take_left]

/-! ### Blocks (R650) -/

theorem flatten_blocks (n : Nat) (b : Bytes) : (blocks n b).flatten = b.take (16 * n) := by
  induction n with
  | zero => rfl
  | succ n ih =>
    rw [blocks, List.range_succ, List.map_append, List.flatten_append, ← blocks, ih, Nat.mul_succ, List.take_add]
    simp [block]

theorem flatten_blocksOf_pad (d : Bytes) : (blocksOf (pad d)).flatten = pad d := by
  have hlen := pad_length d
  rw [blocksOf, flatten_blocks, List.take_of_length_le (by omega)]

theorem block_append_zero {x : Bytes} (hx : x.length = 16) (y : Bytes) : block (x ++ y) 0 = x := by
  simp [block, ← hx]

theorem block_append_succ {x : Bytes} (hx : x.length = 16) (y : Bytes) (m : Nat) : block (x ++ y) (m + 1) = block y m := by
  rw [block, block, Nat.mul_succ, Nat.add_comm, ← hx, List.drop_length_add_append]

/-- How many blocks a byte string has once a block is put before it. -/
theorem length_append_div {x : Bytes} (hx : x.length = 16) (y : Bytes) : (x ++ y).length / 16 = y.length / 16 + 1 := by
  rw [List.length_append]
  omega

theorem blocksOf_append {x : Bytes} (hx : x.length = 16) (y : Bytes) : blocksOf (x ++ y) = x :: blocksOf y := by
  rw [blocksOf, length_append_div hx, blocks, List.range_succ_eq_map, List.map_cons, List.map_map, block_append_zero hx]
  exact congrArg _ (List.map_congr_left fun m _ => block_append_succ hx y m)

theorem blocksOf_flatMap {l : List Bytes} {f : Bytes → Bytes} (h : ∀ x ∈ l, (f x).length = 16) :
    blocksOf (l.flatMap f) = l.map f := by
  induction l with
  | nil => simp [blocksOf, blocks]
  | cons x xs ih =>
    obtain ⟨hx, hxs⟩ := List.forall_mem_cons.1 h
    rw [List.flatMap_cons, blocksOf_append hx, ih hxs, List.map_cons]

/-! ### The modes undone (R653 to R656, R658) -/

/-- The first ciphertext block of CBC is decrypted against the block before it, and then stands before the next. -/
theorem cbcPlain_append (dec : Bytes → Bytes) {cv y : Bytes} (hcv : cv.length = 16) (hy : y.length = 16) (ys : Bytes) :
    cbcPlain dec (cv ++ (y ++ ys)) = xorBytes (dec y) cv ++ cbcPlain dec (y ++ ys) := by
  simp only [cbcPlain, length_append_div hcv, length_append_div hy, Nat.add_sub_cancel, List.range_succ_eq_map,
    List.flatMap_cons, List.flatMap_map, Nat.succ_eq_add_one, block_append_succ hcv, block_append_zero hcv,
    block_append_zero hy]

section
variable {enc dec : Bytes → Bytes} (henc : ∀ b : Bytes, b.length = 16 → (enc b).length = 16)
  (hdec : ∀ b : Bytes, b.length = 16 → dec (enc b) = b)
include henc hdec

theorem cbcPlain_cbcChain {l : List Bytes} (hl : ∀ x ∈ l, x.length = 16) {cv : Bytes} (hcv : cv.length = 16) :
    cbcPlain dec (cv ++ cbcChain enc cv l) = l.flatten := by
  induction l generalizing cv with
  | nil => simp [cbcChain, cbcPlain, hcv]
  | cons x xs ih =>
    obtain ⟨hx, hxs⟩ := List.forall_mem_cons.1 hl
    have hxor : (xorBytes x cv).length = 16 := by rw [xorBytes_length, hx, hcv, Nat.min_self]
    rw [cbcChain, cbcPlain_append dec hcv (henc _ hxor), ih hxs (henc _ hxor), hdec _ hxor,
      xorBytes_xorBytes_cancel (by omega), List.flatten_cons]

theorem ecbDecrypt_ecbEncrypt (d : Bytes) : ecbDecrypt dec (ecbEncrypt enc d) = some d := by
  have hblock : ∀ x ∈ blocksOf (pad d), x.length = 16 := fun _ => mem_blocksOf_length
  have hplain : ((blocksOf (pad d)).map enc).flatMap dec = pad d := by
    rw [List.flatMap_map, List.flatMap_congr fun x hx => hdec x (hblock x hx), List.flatMap_id', flatten_blocksOf_pad]
  rw [ecbDecrypt, ecbEncrypt, blocksOf_flatMap fun x hx => henc x (hblock x hx), hplain, unpad_pad]

theorem cbcDecrypt_cbcEncrypt (d : Bytes) {iv : Bytes} (hiv : iv.length = 16) :
    cbcDecrypt dec (cbcEncrypt enc d iv) = some d := by
  rw [cbcDecrypt, cbcEncrypt, cbcPlain_cbcChain henc hdec (fun _ => mem_blocksOf_length) hiv, flatten_blocksOf_pad,
    unpad_pad]

end

/-- Settles O60: a mode undoes itself as soon as its block function does (R553). -/
theorem modesRoundTrip : Obligations.ModesRoundTrip := by
  intro f e d iv hsb hpb hiv
  have henc (b : Bytes) (hb : b.length = 16) : (encBlock f e b).length = 16 :=
    encBlock_length f e b (pbox_length_of_isPermutation hpb) hb
  have hdec (b : Bytes) (hb : b.length = 16) :
      decBlock f e (inverseBox e.sb) (inverseBox e.pb) (encBlock f e b) = b :=
    decBlockUndoesEncBlock f e b hsb hpb hb
  exact ⟨ecbDecrypt_ecbEncrypt henc hdec d, cbcDecrypt_cbcEncrypt henc hdec d hiv⟩

end Sys2Proof.Machine
end

section
/-! SUPPORT. The errors of LEN and of the data, and the results of ENCRYPT.ECB, DECRYPT.ECB and DECRYPT.CBC (R652, R653,
R655 to R657, R660, R661, R703, R704, R807). -/

namespace Sys2Proof.Machine

open Sys2Proof.Claims

/-! ### LEN (R657, R703, R704) -/

/-- LEN is checked after the key and before the ranges (R807 items 3 to 5). -/
theorem exec_of_length_error {i : Instr} {s : State} {c : StatusCode}
    (hkey : needsKey i = true → s.session.keyValid = true) (hlen : lengthError i (lenOf s) = some c) :
    exec i s = .next (errState c s) := by
  have hkey : (needsKey i && !s.session.keyValid) = false := by simpa using hkey
  exact exec_of_precheck_error i s c (by simp [precheck, hkey, hlen])

/-- Settles O13: each command's rule for LEN, the CBC one stated for the blocks after the first. -/
theorem wrongLengthsAreReported : Obligations.WrongLengthsAreReported := by
  intro s
  refine ⟨fun hlen => ?str, fun hlen => ?hex, fun hset hlen => ?ecb, fun hset hlen => ?cbc⟩
  case str => exact exec_of_length_error nofun (if_neg hlen)
  case hex => exact exec_of_length_error nofun (if_neg hlen)
  case ecb => exact exec_of_length_error (fun _ => hset) (if_neg (by omega))
  case cbc => exact exec_of_length_error (fun _ => hset) (if_neg (by omega))

/-! ### The plaintext of a decrypt (R652, R655, R656, R661) -/

theorem ecbPlain_srcReadLen (s : State) : (blocksOf (srcReadLen s)).flatMap (sessionDec s) = ecbPlainOf s := by
  rw [blocksOf, srcReadLen_length, blocks, List.flatMap_map]
  rfl

theorem cbcPlain_srcReadLen (s : State) : cbcPlain (sessionDec s) (srcReadLen s) = cbcPlainOf s := by
  rw [cbcPlain, srcReadLen_length]
  rfl

theorem exec_decryptEcb {s : State} (hpass : precheck .decryptEcb s = none) :
    exec .decryptEcb s = finishDecrypt (unpad (ecbPlainOf s)) s := by
  simp only [exec, execDecryptEcb, guarded_pass _ hpass, ecbDecrypt, ecbPlain_srcReadLen]

theorem exec_decryptCbc {s : State} (hpass : precheck .decryptCbc s = none) :
    exec .decryptCbc s = finishDecrypt (unpad (cbcPlainOf s)) s := by
  simp only [exec, execDecryptCbc, guarded_pass _ hpass, cbcDecrypt, cbcPlain_srcReadLen]

theorem finishDecrypt_of_length_lt_padCount {q : Bytes} (s : State) (h : q.length < padCount q) :
    finishDecrypt (unpad q) s = .next (errState .padRange s) := by
  rw [unpad_eq, if_pos h]
  rfl

/-- A decrypt whose pad count is in range writes the plaintext less the pad, after the reverse boxes are cached. -/
theorem finishDecrypt_of_padCount_le {q : Bytes} {s : State} {n : Nat} (hn : q.length = n) (h : padCount q ≤ n) :
    ∃ t, finishDecrypt (unpad q) s = .next t ∧ WroteAtDst s t (n - padCount q) (q.take (n - padCount q)) ∧
      t.session = sessionReversed s.session ∧ t.prng = s.prng := by
  subst hn
  rw [unpad_eq, if_neg (by omega)]
  exact finishWrite_wroteAtDst (SameFrame.refl s).deriveReverse rfl (List.length_take_of_le (Nat.sub_le ..))

theorem ecbPlainOf_length {s : State} (hp : s.session.pbox.length = 64) (hmod : lenOf s % 16 = 0) :
    (ecbPlainOf s).length = lenOf s := by
  rw [← ecbPlain_srcReadLen, flatMap_length_16 _ _ fun _ hx => sessionDec_length hp (mem_blocksOf_length hx),
    blocksOf_length, srcReadLen_length, Nat.mul_div_cancel' (Nat.dvd_of_mod_eq_zero hmod)]

theorem cbcPlainOf_length {s : State} (hp : s.session.pbox.length = 64) (hmod : lenOf s % 16 = 0) :
    (cbcPlainOf s).length = lenOf s - 16 := by
  rw [← cbcPlain_srcReadLen, cbcPlain_length fun _ hb => sessionDec_length hp hb, srcReadLen_length, Nat.mul_sub,
    Nat.mul_div_cancel' (Nat.dvd_of_mod_eq_zero hmod)]

/-! ### DECRYPT.ECB, DECRYPT.CBC and SETKEYHEX (R655 to R657, R661, R704) -/

section
variable {s : State} (hset : s.session.keyValid = true) (hmod : lenOf s % 16 = 0)
  (hsrc : Fits s (srcOf s) (lenOf s))
include hset hmod hsrc

theorem precheck_decryptEcb (hmin : 16 ≤ lenOf s) (hdst : Fits s (dstOf s) (lenOf s)) :
    precheck .decryptEcb s = none :=
  precheck_of_fits (fun _ => hset) (if_pos ⟨hmod, hmin⟩) rfl rfl hsrc hdst

theorem precheck_decryptCbc (hmin : 32 ≤ lenOf s) (hdst : Fits s (dstOf s) (lenOf s - 16)) :
    precheck .decryptCbc s = none :=
  precheck_of_fits (fun _ => hset) (if_pos ⟨hmod, by omega⟩) rfl rfl hsrc hdst

end

/-- Settles O29: the checks pass, and a plaintext of whole blocks is as long as LEN says. -/
theorem decryptEcbWritesUnpaddedBytes : Obligations.DecryptEcbWritesUnpaddedBytes := by
  intro s hp hset hmin hmod hsrc hdst hpad
  rw [exec_decryptEcb (precheck_decryptEcb hset hmod hsrc hmin hdst)]
  exact finishDecrypt_of_padCount_le (ecbPlainOf_length hp hmod) hpad

/-- Settles O30: the checks pass, and the first block of the ciphertext gives no plaintext. -/
theorem decryptCbcWritesUnpaddedBytes : Obligations.DecryptCbcWritesUnpaddedBytes := by
  intro s hp hset hmin hmod hsrc hdst hpad
  rw [exec_decryptCbc (precheck_decryptCbc hset hmod hsrc hmin hdst)]
  exact finishDecrypt_of_padCount_le (cbcPlainOf_length hp hmod) hpad

/-- A hex text in range with a byte that is no hex digit: the last check of SETKEYHEX (R704). -/
theorem exec_setkeyhex_of_bad_digit {s : State} (hpass : precheck .setkeyhex s = none) {k : Nat} (hk : k < 32)
    (hbad : isHexDigit (srcByte s k) = false) : exec .setkeyhex s = .next (errState .invalidKeyFormat s) := by
  have hmem : srcByte s k ∈ srcRead 32 s := List.mem_map_of_mem (List.mem_range.2 hk)
  have hall : ¬(srcRead 32 s).all isHexDigit = true := fun hall =>
    Bool.false_ne_true (hbad.symm.trans (List.all_eq_true.1 hall _ hmem))
  simp only [exec, execSetkeyhex, guarded_pass _ hpass, if_neg hall]
  rfl

/-- Settles O15: every check before the data passes, and the data decides. -/
theorem badDataIsReported : Obligations.BadDataIsReported := by
  intro s
  refine ⟨fun hlen hsrc ⟨k, hk, hbad⟩ => ?hex, fun hset hmin hmod hsrc hdst hpad => ?ecb,
    fun hset hmin hmod hsrc hdst hpad => ?cbc⟩
  case hex =>
    have hrange : rangeOk s.params.dmemBytes s.pending.src (some 32) = true := by simpa [rangeOk] using hsrc
    have hpass : precheck .setkeyhex s = none := precheck_eq_none.2 ⟨nofun, if_pos hlen, hrange, rfl⟩
    exact exec_setkeyhex_of_bad_digit hpass hk hbad
  case ecb =>
    rw [exec_decryptEcb (precheck_decryptEcb hset hmod hsrc hmin hdst), finishDecrypt_of_length_lt_padCount s hpad]
  case cbc =>
    rw [exec_decryptCbc (precheck_decryptCbc hset hmod hsrc hmin hdst), finishDecrypt_of_length_lt_padCount s hpad]

/-! ### ENCRYPT.ECB (R653, R657, R660) -/

/-- Settles O27: with a key and both ranges in DMEM the checks pass, and every block encrypts to a whole block. -/
theorem encryptEcbWritesPaddedBlocks : Obligations.EncryptEcbWritesPaddedBlocks := by
  intro s hp hset hsrc hdst
  have hlen := ecbEncrypt_length (fun _ hb => sessionEnc_length hp hb) (srcReadLen s)
  rw [srcReadLen_length] at hlen
  exact computed_of_precheck (fun s => ecbEncrypt (sessionEnc s) (srcReadLen s))
    (precheck_of_fits (fun _ => hset) rfl rfl rfl hsrc hdst) hlen

end Sys2Proof.Machine
end

section
/-! SUPPORT. NOP, SETKEYSTR and SETKEYHEX (R700, R701, R703, R704). -/

namespace Sys2Proof.Machine

open Sys2Proof.Claims

/-! ### SETKEYSTR and SETKEYHEX (R700, R703, R704) -/

/-- The end of a key command that draws nothing: `k` is the key, and DMEM and the generator stay (R700, R803). -/
theorem finish_commitKey_established (k : Bytes) (s : State) :
    ∃ t, finish 0 (commitKey k s) = .next t ∧
      Established s t (sessionOfKey s.params.pboxForm s.session k) s.prng := by
  rw [← commitSession_derive]
  exact ⟨_, rfl, rfl, rfl, rfl, fun _ => rfl, rfl, rfl, rfl, rfl, rfl, rfl⟩

/-- The checks of a command that names SRC only and needs no key pass once LEN and the range are right (R807). -/
theorem precheck_of_src_fits {i : Instr} {s : State} {m : Nat} (hkey : needsKey i = false)
    (hlen : lengthError i (lenOf s) = none) (hm : srcBytes i (lenOf s) = some m) (hn : dstBytes i (lenOf s) = none)
    (hsrc : Fits s (srcOf s) m) : precheck i s = none :=
  precheck_eq_none.2 ⟨by simp [hkey], hlen, by simpa [hm, rangeOk] using hsrc, by simp [hn, rangeOk]⟩

/-- Settles O21: the checks pass, and the 16 bytes read are the key. -/
theorem setkeystrEstablishesText : Obligations.SetkeystrEstablishesText := by
  intro s hlen hsrc
  have hpass : precheck .setkeystr s = none := precheck_of_src_fits rfl (if_pos hlen) rfl rfl hsrc
  simp only [exec, execSetkeystr, guarded_pass _ hpass, srcRead_eq_srcInput]
  exact finish_commitKey_established (srcInput s 16) s

theorem getD_srcInput (s : State) {n k : Nat} (hk : k < n) : (srcInput s n).getD k 0 = srcByte s k := by
  simp [srcInput, List.getD, hk]

/-- Each byte of the key has both its digits among the 32 of the text (R704). -/
theorem hexKey_srcInput (s : State) :
    hexKey (srcInput s 32) = (List.range 16).map fun i =>
      BitVec.ofNat 8 (16 * hexVal (srcByte s (2 * i)) + hexVal (srcByte s (2 * i + 1))) := by
  refine List.map_congr_left fun i hi => ?_
  have hi : i < 16 := List.mem_range.1 hi
  rw [getD_srcInput s (show 2 * i < 32 by omega), getD_srcInput s (show 2 * i + 1 < 32 by omega)]

theorem all_srcInput {s : State} {n : Nat} {p : Byte → Bool} (h : ∀ k, k < n → p (srcByte s k) = true) :
    (srcInput s n).all p = true := by
  simpa [srcInput] using h

/-- Settles O22: the checks pass, every byte read is a digit, and the key is the text's pairs of digits. -/
theorem setkeyhexEstablishesHexText : Obligations.SetkeyhexEstablishesHexText := by
  intro s hlen hsrc hdigits
  have hpass : precheck .setkeyhex s = none := precheck_of_src_fits rfl (if_pos hlen) rfl rfl hsrc
  simp only [exec, execSetkeyhex, guarded_pass _ hpass, srcRead_eq_srcInput, if_pos (all_srcInput hdigits),
    hexKey_srcInput]
  exact finish_commitKey_established _ s

/-! ### NOP (R305, R701) -/

/-- A word of OP 0 is judged by the entry of NOP (R305). -/
theorem decode_of_opField_zero {w : Word} (hop : opField w = 0#8) : decode w = decodeEntry w (.formatN .nop) := by
  rw [decode, hop]
  rfl

/-- Bits 31:8 are reserved in NOP's format, so the word 0 is its only word. -/
theorem decode_of_opField_zero_of_ne_zero {w : Word} (hop : opField w = 0#8) (hw : w ≠ 0) :
    decode w = .error .badCommand := by
  have hreserved : w.extractLsb' 8 24 ≠ 0 := fun hzero => hw (by rw [eq_plainWord_of_formatN hzero, hop]; rfl)
  rw [decode_of_opField_zero hop, decodeEntry, if_neg hreserved]

/-- Settles O19: NOP has one word, and no check that could fail. -/
theorem nopOnlyCompletes : Obligations.NopOnlyCompletes :=
  ⟨rfl, fun _ hop hw => decode_of_opField_zero_of_ne_zero hop hw, fun _ => rfl⟩

end Sys2Proof.Machine
end

section
/-! SUPPORT. The completion step, seen through the state it leaves: error completions (R804) and irq (R808). -/

namespace Sys2Proof.Machine

open Sys2Proof.Claims

variable {s t : State}

/-- A completion answers an error completion of `s` (R804), or a success (R803) from a state with the frame of `s`. -/
theorem complete_eq_next (ht : complete s = .next t) :
    (∃ c, t = raiseError c s) ∨ ∃ n u, SameFrame s u ∧ t = completeOk n u := by
  have completion := complete_completion s
  generalize complete s = r at completion ht
  cases completion with
  | error c => cases ht; exact .inl ⟨c, rfl⟩
  | success n same => cases ht; exact .inr ⟨n, _, same, rfl⟩

/-- Settles O10: a success leaves ERR = OK, so a nonzero code is that of an error completion. -/
theorem errorCompletionIsPrecise : Obligations.ErrorCompletionIsPrecise := by
  intro s t ht herr
  obtain ⟨c, rfl⟩ | ⟨n, u, -, rfl⟩ := complete_eq_next ht
  · rfl
  · exact absurd rfl herr

theorem complete_done (ht : complete s = .next t) : t.regs.done = true := by
  obtain ⟨c, rfl⟩ | ⟨n, u, -, rfl⟩ := complete_eq_next ht <;> rfl

theorem complete_ie (ht : complete s = .next t) : t.regs.ie = s.regs.ie := by
  obtain ⟨c, rfl⟩ | ⟨n, u, ⟨-, hregs⟩, rfl⟩ := complete_eq_next ht
  · rfl
  · rw [completeOk_regs, hregs]

theorem complete_irq (ht : complete s = .next t) : t.irq = s.regs.ie := by
  rw [State.irq, complete_done ht, complete_ie ht, Bool.true_and]

end Sys2Proof.Machine
end

section
/-! SUPPORT. Acceptance of a CMD write (R800), and the writes a busy core rejects (R801, R809, R906). -/

namespace Sys2Proof.Machine

open Sys2Proof.Claims

variable {s : State} {rest : List Event} {a v : Word}

theorem step_of_cmd_write (hidle : s.regs.busy = false) (hin : s.inbox = writeTo 0x00C v :: rest) :
    step s = .next (answer (.write false) (accept v { s with inbox := rest })) :=
  step_of_register_write (tgt := .cmd) (by decide) (.inl hidle) hin

/-- Settles O8: CMD is a register, and an idle core takes a write of it. -/
theorem cmdWriteIsAccepted : Obligations.CmdWriteIsAccepted := fun _ _ _ hidle hin => step_of_cmd_write hidle hin

/-- A write of an operand of a busy core: misaligned or not, it is answered `err = 1` and has no effect. -/
theorem step_of_rejected_write (hin : s.inbox = writeTo a v :: rest) (hbusy : s.regs.busy = true)
    (hrejected : (s.target a).rejectedWhileBusy = true) : step s = .next (answered s rest (.write true)) := by
  by_cases ha : a.toNat % 4 = 0
  · have hmapped : s.target a ≠ .unmapped := fun h => by simp [h, Target.rejectedWhileBusy] at hrejected
    simp [step, advance, hin, writeTo, perform, busAccess, aligned_iff, ha, hmapped, writeMapped, hbusy, hrejected,
      answer, answered]
  · exact step_of_bus_error hin (.inl ha)

/-- Settles O39: the targets of these offsets are those that R906 closes while BUSY = 1. -/
theorem busyCoreRejectsOperandWrites : Obligations.BusyCoreRejectsOperandWrites := by
  intro s rest a v hbusy hin h
  refine step_of_rejected_write hin hbusy ?_
  obtain hreg | ⟨hlow, hhigh⟩ := h
  · have hoperands : ∀ a ∈ [0x00C, 0x010, 0x014, 0x018, 0x020, 0x030, 0x034, 0x038, 0x03C],
        (target s.params.dmemBytes a).rejectedWhileBusy = true := by
      simp only [List.forall_mem_cons]
      exact ⟨rfl, rfl, rfl, rfl, rfl, rfl, rfl, rfl, rfl, nofun⟩
    exact hoperands a.toNat hreg
  · rw [State.target, target_dmem hlow hhigh]
    rfl

end Sys2Proof.Machine
end

section
/-! SUPPORT. Soft reset (R902) and the command it aborts (R903). -/

namespace Sys2Proof.Machine

open Sys2Proof.Claims

variable {s : State} {rest : List Event} {v : Word} {i : Instr} {a : Nat}

/-! ### What an abort may touch -/

theorem abortEffects_of_error {e : DecodeError} (h : decode s.pending.word = .error e) : abortEffects s = s := by
  simp only [abortEffects, h]

theorem abortEffects_of_ok (h : decode s.pending.word = .ok i) : abortEffects s = abortInstr i s := by
  simp only [abortEffects, h]

@[simp] theorem abortEffects_session (s : State) : (abortEffects s).session = s.session := by
  unfold abortEffects
  split <;> rfl

@[simp] theorem abortEffects_replies (s : State) : (abortEffects s).replies = s.replies := by
  unfold abortEffects
  split <;> rfl

/-- An abort does not look at the schedule. -/
theorem abortEffects_withInbox (s : State) (rest : List Event) :
    abortEffects { s with inbox := rest } = { abortEffects s with inbox := rest } := by
  unfold abortEffects
  cases decode s.pending.word <;> rfl

theorem abortedBytes_of_error {c : StatusCode} (h : precheck i s = some c) : abortedBytes i s = 0 := by
  simp only [abortedBytes, h]

theorem abortedBytes_of_pass (h : precheck i s = none) : abortedBytes i s = (dstBytes i (lenOf s)).getD 0 := by
  simp only [abortedBytes, h]

/-- A command without a destination range has none to abort, whether its checks pass or not. -/
theorem abortedBytes_of_no_dst (h : dstBytes i (lenOf s) = none) : abortedBytes i s = 0 := by
  cases hp : precheck i s with
  | some c => exact abortedBytes_of_error hp
  | none => rw [abortedBytes_of_pass hp, h, Option.getD_none]

theorem abortedRun_length (k b n : Nat) : (abortedRun k b n).length = n := by simp [abortedRun]

theorem readByte_abortInstr_of_outside (ha : a < dstOf s ∨ dstOf s + abortedBytes i s ≤ a) :
    (abortInstr i s).readByte a = s.readByte a := by
  have hwrite := readByte_memWrite s (dstOf s) (abortedRun s.freeDraws (dstOf s) (abortedBytes i s)) a
  rw [abortedRun_length, if_neg (by omega)] at hwrite
  exact hwrite

theorem readByte_abortInstr_of_nothing (h : abortedBytes i s = 0) (a : Nat) :
    (abortInstr i s).readByte a = s.readByte a :=
  readByte_abortInstr_of_outside (by omega)

theorem drawsGenerator_iff (i : Instr) : drawsGenerator i = true ↔ i ∈ drawingCommands := by
  cases i <;> simp [drawsGenerator, drawingCommands]

theorem abortInstr_prng_of_not_drawing (h : i ∉ drawingCommands) : (abortInstr i s).prng = s.prng :=
  if_neg (mt (drawsGenerator_iff i).1 h)

/-! ### Soft reset -/

theorem softReset_of_idle (h : s.regs.busy = false) : softReset s = clearForSoftReset s := by simp [softReset, h]

theorem softReset_of_busy (h : s.regs.busy = true) : softReset s = clearForSoftReset (abortEffects s) := by
  simp [softReset, h]

theorem softReset_withInbox (s : State) (rest : List Event) :
    softReset { s with inbox := rest } = { softReset s with inbox := rest } := by
  cases h : s.regs.busy with
  | false => rw [softReset_of_idle h, softReset_of_idle (s := { s with inbox := rest }) h]; rfl
  | true =>
    rw [softReset_of_busy h, softReset_of_busy (s := { s with inbox := rest }) h, abortEffects_withInbox]
    rfl

theorem step_of_soft_reset (hsrst : v.getLsbD 1 = true) (hin : s.inbox = writeTo 0x004 v :: rest) :
    step s = .next (answered (softReset s) rest (.write false)) := by
  rw [step_of_register_write (tgt := .ctrl) (by decide) (.inr rfl) hin, writeTarget, writeCtrl_of_srst hsrst,
    softReset_withInbox]
  rfl

/-- Settles O46: an idle core has no command to abort. -/
theorem softResetForgetsTheSession : Obligations.SoftResetForgetsTheSession := by
  intro s rest v hidle hsrst hin
  rw [step_of_soft_reset hsrst hin, softReset_of_idle hidle]
  rfl

/-- Settles O47: what becomes free is the aborted command's, and the rest of a soft reset leaves DMEM and S.PRNG alone. -/
theorem softResetAbortsOnlyTheCommand : Obligations.SoftResetAbortsOnlyTheCommand := by
  intro s rest v hbusy hsrst hin
  have hstep := step_of_soft_reset hsrst hin
  rw [softReset_of_busy hbusy] at hstep
  refine ⟨_, hstep, rfl, congrArg forgotten (abortEffects_session s), rfl,
    congrArg (Reply.write false :: ·) (abortEffects_replies s), ?_, ?_⟩
  · intro e he
    rw [abortEffects_of_error he]
    exact ⟨fun _ => rfl, rfl⟩
  · intro i hi
    rw [abortEffects_of_ok hi]
    refine ⟨fun c hc => readByte_abortInstr_of_nothing (abortedBytes_of_error hc), fun n hpass hn a ha => ?_,
      fun hnone => readByte_abortInstr_of_nothing (abortedBytes_of_no_dst hnone), abortInstr_prng_of_not_drawing⟩
    exact readByte_abortInstr_of_outside (by rwa [abortedBytes_of_pass hpass, hn, Option.getD_some])

end Sys2Proof.Machine
end

section
/-! SUPPORT. The interrupt output over a step (R808), and what ends a command in progress (R802, R818). -/

namespace Sys2Proof.Machine

open Sys2Proof.Claims

variable {s t : State}

theorem irq_of_ctrl_write {rest : List Event} {v : Word} (ht : step s = .next t)
    (hin : s.inbox = writeTo 0x004 v :: rest) (hsrst : v.getLsbD 1 = false) : t.irq = (s.regs.done && v.getLsbD 0) := by
  obtain ⟨-, hctrl, -⟩ := registerWritesTakeEffect s rest v
  cases (hctrl hin hsrst).symm.trans ht
  rfl

/-- Settles O49: irq is DONE and IE, and each of these events puts one of the two to 0, or both. -/
theorem irqFollowsDoneAndIe : Obligations.IrqFollowsDoneAndIe := by
  refine ⟨fun _ _ ht => complete_irq ht, fun s t rest v ht => ?_⟩
  obtain ⟨-, -, hstatus⟩ := registerWritesTakeEffect s rest v
  refine ⟨fun hin hie hsrst => ?_, ?_⟩
  · rw [irq_of_ctrl_write ht hin hsrst, hie, Bool.and_true]
  · rintro (⟨hin, hdone⟩ | ⟨hin, hidle⟩ | ⟨hin, hclear⟩ | hin)
    · cases (hstatus hin hdone).symm.trans ht
      rfl
    · cases (step_of_cmd_write hidle hin).symm.trans ht
      rfl
    · cases hsrst : v.getLsbD 1 with
      | true =>
        cases (step_of_soft_reset hsrst hin).symm.trans ht
        rfl
      | false =>
        have hie : v.getLsbD 0 = false := hclear.resolve_right (hsrst ▸ Bool.false_ne_true)
        rw [irq_of_ctrl_write ht hin hsrst, hie, Bool.and_false]
    · cases (step_of_rst hin).symm.trans ht
      rfl

/-- A write leaves a busy core busy unless it is a soft reset. -/
theorem writeTarget_busy (hbusy : s.regs.busy = true) (v : Word) (tgt : Target) :
    (writeTarget v s tgt).regs.busy = true ∨ (tgt = .ctrl ∧ v.getLsbD 1 = true) := by
  cases tgt with
  | ctrl =>
    cases hv : v.getLsbD 1 with
    | false => exact .inl (by rw [writeTarget, writeCtrl_of_ie hv]; exact hbusy)
    | true => exact .inr ⟨rfl, rfl⟩
  | status =>
    refine .inl ?_
    simp only [writeTarget, writeStatus]
    split <;> exact hbusy
  | cmd => exact .inl rfl
  | id | src | len | dst | outlen | prngSeed | keyIn w | key w | ks off | sbox off | rsbox off | pbox off | rpbox off
  | dmem off | unmapped => exact .inl hbusy

/-- Only a write to offset 0x004 writes CTRL. -/
theorem eq_writeTo_of_target_ctrl {txn : Txn} (hw : txn.write = true) (htarget : s.target txn.addr = .ctrl) :
    Event.bus txn = writeTo 0x004 txn.wdata := by
  have haddr : txn.addr = 0x004 := BitVec.eq_of_toNat_eq (eq_of_target_eq_ctrl htarget)
  rw [writeTo, ← haddr, ← hw]

/-- A transaction leaves a busy core busy unless it is a soft reset: a write to CTRL with SRST set. -/
theorem busAccess_busy (hbusy : s.regs.busy = true) (txn : Txn) :
    (busAccess txn s).regs.busy = true ∨
    (Event.bus txn = writeTo 0x004 txn.wdata ∧ txn.wdata.getLsbD 1 = true) := by
  obtain ⟨-, he⟩ | ⟨-, -, ⟨-, -, -, he⟩ | ⟨hw, -, he⟩ | ⟨-, -, -, he⟩ | ⟨-, -, he⟩⟩ := busAccess_cases txn s
  · exact .inl (by rw [he]; exact hbusy)
  · exact .inl (by rw [he]; exact hbusy)
  · rw [he]
    exact (writeTarget_busy hbusy txn.wdata (s.target txn.addr)).imp id
      fun ⟨htarget, hsrst⟩ => ⟨eq_writeTo_of_target_ctrl hw htarget, hsrst⟩
  · exact .inl (by rw [he]; exact hbusy)
  · exact .inl (by rw [he]; exact hbusy)

/-- Settles O53: the core's turn sets DONE, a transaction keeps BUSY unless it is a soft reset, and the third kind of
step is the hardware reset. -/
theorem nothingCancelsACommand : Obligations.NothingCancelsACommand := by
  intro s t ht hbusy hended
  obtain ⟨rest, hturn, he⟩ | ⟨txn, rest, hin, he⟩ | ⟨rest, hin, -⟩ := step_agents s
  · have hc : coreTurn { s with inbox := rest } = complete { s with inbox := rest } := if_pos hbusy
    exact .inl ⟨⟨rest, hturn⟩, complete_done (hc.symm.trans (he.symm.trans ht))⟩
  · cases he.symm.trans ht
    obtain hkept | ⟨hwrite, hsrst⟩ := busAccess_busy (s := { s with inbox := rest }) hbusy txn
    · exact absurd (hkept.symm.trans hended) (by decide)
    · exact .inr (.inr ⟨rest, txn.wdata, hwrite ▸ hin, hsrst⟩)
  · exact .inr (.inl ⟨rest, hin⟩)

end Sys2Proof.Machine
end
